-- ==== Sys2Proof/Word.lean ====
section
/-!
DEFINITION. The two word types of the machine (00_scope.md R9, R12): `Byte` is the spec's u8 and
`Word` its u16. Bit 0 is the least significant bit (R11); arithmetic wraps, as `BitVec`'s does.
-/

namespace Sys2Proof

/-- An unsigned 8-bit value, the spec's `u8` (R12). -/
abbrev Byte := BitVec 8

/-- An unsigned 16-bit value, the spec's `u16`: every register and every address (R12). -/
abbrev Word := BitVec 16

end Sys2Proof
end

