-- ==== Sys2Proof/Config.lean ====
section
/-!
DEFINITION. The named parameters of 00_scope.md R10. Each is a field of `Config`; the settings the
machine runs under are `Sys2Proof.Machine.config` (Machine/Ops.lean), the spec's defaults. The shared
operations take a `Config` as an argument, so every setting the spec names is modelled.
-/

namespace Sys2Proof

/-- `P_BYTE_IMM`: what a byte-width load yields in immediate mode (R131, D8). -/
inductive ByteImm where
  /-- the whole 16-bit Operand (the default) -/
  | fullOperand
  /-- the low byte of Operand, zero-extended -/
  | lowByte
deriving DecidableEq, Repr

/-- `P_UNARY_V`: the V rule of NEG, ASL, ASR, ROL and ROR (R154, D14). -/
inductive UnaryV where
  /-- V is bit 15 before XOR bit 15 after (the default) -/
  | signChange
  /-- the published Pep/9 rule, instruction by instruction -/
  | pep9Overflow
deriving DecidableEq, Repr

/-- `P_MOVFLGA`: what MOVFLGA leaves in A's bits 15..4 (R191, D15). -/
inductive MovFlgA where
  /-- zeros (the default) -/
  | clear
  /-- A's own bits 15..4 -/
  | keep
deriving DecidableEq, Repr

/-- `P_MOVAFLG`: how MOVAFLG maps A to the flags (R192, D16). -/
inductive MovAFlg where
  /-- each flag tests its own bit and every bit below it (the default) -/
  | cumulativeMask
  /-- each flag tests its own bit alone -/
  | extract
deriving DecidableEq, Repr

/-- `P_INIT`: the machine's state at construction, before any `Initialize` (R333, D23). -/
inductive Init where
  /-- every element zero or false (the default) -/
  | allZero
  /-- every element a free draw -/
  | arbitrary
deriving DecidableEq, Repr

/-- The parameters of R10, one field each. -/
structure Config where
  byteImm : ByteImm
  unaryV : UnaryV
  movFlgA : MovFlgA
  movAFlg : MovAFlg
  init : Init
  /-- `P_MAX_IMAGE`: the longest program image `LoadProgram` accepts, in bytes (R331, D25). Settings above
  65536 are the model's own (assumption log 19). -/
  maxImage : Nat
deriving DecidableEq, Repr

end Sys2Proof
end

