-- ==== Sys2Proof/Syntax.lean ====
section
/-!
DEFINITION. The instructions: one constructor per row of spec/opcode_table.json (30_encoding.md R84
to R89), with the fields the row's encoding carries: the index bit of branches and CALL, the
addressing mode, and the 16-bit operand of format N (R81 to R83).
-/

namespace Sys2Proof

/-- The eight addressing modes, the field `aaa` (41_addressing_modes.md R130). -/
inductive Mode where
  /-- `i`, aaa = 0 -/
  | immediate
  /-- `d`, aaa = 1 -/
  | direct
  /-- `n`, aaa = 2 -/
  | indirect
  /-- `s`, aaa = 3 -/
  | stackRelative
  /-- `sf`, aaa = 4 -/
  | stackDeferred
  /-- `x`, aaa = 5 -/
  | indexed
  /-- `sx`, aaa = 6 -/
  | stackIndexed
  /-- `sfx`, aaa = 7 -/
  | stackDeferredIndexed
deriving DecidableEq, Repr

/-- The index bit `a` of branches and CALL (R82): the target is Operand, or Operand + X. -/
inductive Index where
  /-- a = 0 -/
  | plain
  /-- a = 1 -/
  | indexed
deriving DecidableEq, Repr

/-- The instruction set, in the table's order. A row that names A or X has the register in its
constructor's name. The four UNKNOWN rows carry the opcode byte itself (R89, R106). -/
inductive Instr where
  /-- HALT, 0x00, R170 -/
  | halt
  /-- RET, 0x01, R171 -/
  | ret
  /-- the return at 0x02, RETTR in Pep/9, 0x02, R172 -/
  | ret02
  /-- MOVSPA, 0x03, R190 -/
  | movspa
  /-- MOVFLGA, 0x04, R191 -/
  | movflga
  /-- MOVAFLG, 0x05, R192 -/
  | movaflg
  /-- NOTA, 0x06, R193 -/
  | nota
  /-- NOTX, 0x07, R193 -/
  | notx
  /-- NEGA, 0x08, R194 -/
  | nega
  /-- NEGX, 0x09, R194 -/
  | negx
  /-- ASLA, 0x0A, R195 -/
  | asla
  /-- ASLX, 0x0B, R195 -/
  | aslx
  /-- ASRA, 0x0C, R196 -/
  | asra
  /-- ASRX, 0x0D, R196 -/
  | asrx
  /-- ROLA, 0x0E, R197 -/
  | rola
  /-- ROLX, 0x0F, R197 -/
  | rolx
  /-- RORA, 0x10, R198 -/
  | rora
  /-- RORX, 0x11, R198 -/
  | rorx
  /-- BR, 0x12 to 0x13, R282 -/
  | br (ix : Index) (operand : Word)
  /-- BRLE, 0x14 to 0x15, R283 -/
  | brle (ix : Index) (operand : Word)
  /-- BRLT, 0x16 to 0x17, R284 -/
  | brlt (ix : Index) (operand : Word)
  /-- BREQ, 0x18 to 0x19, R285 -/
  | breq (ix : Index) (operand : Word)
  /-- BRNE, 0x1A to 0x1B, R286 -/
  | brne (ix : Index) (operand : Word)
  /-- BRGE, 0x1C to 0x1D, R287 -/
  | brge (ix : Index) (operand : Word)
  /-- BRGT, 0x1E to 0x1F, R288 -/
  | brgt (ix : Index) (operand : Word)
  /-- BRV, 0x20 to 0x21, R289 -/
  | brv (ix : Index) (operand : Word)
  /-- BRC, 0x22 to 0x23, R290 -/
  | brc (ix : Index) (operand : Word)
  /-- CALL, 0x24 to 0x25, R173 -/
  | call (ix : Index) (operand : Word)
  /-- UNKNOWN, 0x26 to 0x27, R301 -/
  | unknown26 (op : Byte) (operand : Word)
  /-- UNKNOWN, 0x28 to 0x2F, R301 -/
  | unknown28 (op : Byte) (operand : Word)
  /-- UNKNOWN, 0x30 to 0x3F, R301 -/
  | unknown30 (op : Byte) (operand : Word)
  /-- UNKNOWN, 0x40 to 0x4F, R301 -/
  | unknown40 (op : Byte) (operand : Word)
  /-- ADDSP, 0x50 to 0x57, R221 -/
  | addsp (mode : Mode) (operand : Word)
  /-- SUBSP, 0x58 to 0x5F, R222 -/
  | subsp (mode : Mode) (operand : Word)
  /-- ADDA, 0x60 to 0x67, R223 -/
  | adda (mode : Mode) (operand : Word)
  /-- ADDX, 0x68 to 0x6F, R223 -/
  | addx (mode : Mode) (operand : Word)
  /-- SUBA, 0x70 to 0x77, R224 -/
  | suba (mode : Mode) (operand : Word)
  /-- SUBX, 0x78 to 0x7F, R224 -/
  | subx (mode : Mode) (operand : Word)
  /-- ANDA, 0x80 to 0x87, R225 -/
  | anda (mode : Mode) (operand : Word)
  /-- ANDX, 0x88 to 0x8F, R225 -/
  | andx (mode : Mode) (operand : Word)
  /-- ORA, 0x90 to 0x97, R226 -/
  | ora (mode : Mode) (operand : Word)
  /-- ORX, 0x98 to 0x9F, R226 -/
  | orx (mode : Mode) (operand : Word)
  /-- CPWA, 0xA0 to 0xA7, R250 -/
  | cpwa (mode : Mode) (operand : Word)
  /-- CPWX, 0xA8 to 0xAF, R250 -/
  | cpwx (mode : Mode) (operand : Word)
  /-- CPBA, 0xB0 to 0xB7, R250 -/
  | cpba (mode : Mode) (operand : Word)
  /-- CPBX, 0xB8 to 0xBF, R250 -/
  | cpbx (mode : Mode) (operand : Word)
  /-- LDWA, 0xC0 to 0xC7, R260 -/
  | ldwa (mode : Mode) (operand : Word)
  /-- LDWX, 0xC8 to 0xCF, R260 -/
  | ldwx (mode : Mode) (operand : Word)
  /-- LDBA, 0xD0 to 0xD7, R261 -/
  | ldba (mode : Mode) (operand : Word)
  /-- LDBX, 0xD8 to 0xDF, R261 -/
  | ldbx (mode : Mode) (operand : Word)
  /-- STWA, 0xE0 to 0xE7, R263 -/
  | stwa (mode : Mode) (operand : Word)
  /-- STWX, 0xE8 to 0xEF, R263 -/
  | stwx (mode : Mode) (operand : Word)
  /-- STBA, 0xF0 to 0xF7, R264 -/
  | stba (mode : Mode) (operand : Word)
  /-- STBX, 0xF8 to 0xFF, R264 -/
  | stbx (mode : Mode) (operand : Word)
deriving DecidableEq, Repr

end Sys2Proof
end

