-- ==== Sys2Proof/WellFormed.lean ====
section
/-!
DEFINITION. Which terms of `Instr` are instructions the encoding can hold. The types settle all of it
but the opcode byte of the four UNKNOWN rows, which must lie in its row's range (30_encoding.md R89).
Every operand value and every addressing mode is legal (R91); a store in immediate mode is a
well-formed instruction, which faults when it runs (R90).
-/

namespace Sys2Proof

/-- Is this an instruction some bytes encode? -/
def Instr.wellFormed : Instr → Bool
  | .halt => true
  | .ret => true
  | .ret02 => true
  | .movspa => true
  | .movflga => true
  | .movaflg => true
  | .nota => true
  | .notx => true
  | .nega => true
  | .negx => true
  | .asla => true
  | .aslx => true
  | .asra => true
  | .asrx => true
  | .rola => true
  | .rolx => true
  | .rora => true
  | .rorx => true
  | .br _ _ => true
  | .brle _ _ => true
  | .brlt _ _ => true
  | .breq _ _ => true
  | .brne _ _ => true
  | .brge _ _ => true
  | .brgt _ _ => true
  | .brv _ _ => true
  | .brc _ _ => true
  | .call _ _ => true
  | .unknown26 op _ => decide (0x26 ≤ op.toNat) && decide (op.toNat ≤ 0x27)
  | .unknown28 op _ => decide (0x28 ≤ op.toNat) && decide (op.toNat ≤ 0x2F)
  | .unknown30 op _ => decide (0x30 ≤ op.toNat) && decide (op.toNat ≤ 0x3F)
  | .unknown40 op _ => decide (0x40 ≤ op.toNat) && decide (op.toNat ≤ 0x4F)
  | .addsp _ _ => true
  | .subsp _ _ => true
  | .adda _ _ => true
  | .addx _ _ => true
  | .suba _ _ => true
  | .subx _ _ => true
  | .anda _ _ => true
  | .andx _ _ => true
  | .ora _ _ => true
  | .orx _ _ => true
  | .cpwa _ _ => true
  | .cpwx _ _ => true
  | .cpba _ _ => true
  | .cpbx _ _ => true
  | .ldwa _ _ => true
  | .ldwx _ _ => true
  | .ldba _ _ => true
  | .ldbx _ _ => true
  | .stwa _ _ => true
  | .stwx _ _ => true
  | .stba _ _ => true
  | .stbx _ _ => true

end Sys2Proof
end

