-- ==== Sys2Proof/Decode.lean ====
section
/-!
DEFINITION. The decoder and the encoder (30_encoding.md R80 to R91; 40_fetch_decode_dispatch.md R104
to R106), and the byte order of an instruction's operand word (R59, R83).
-/

namespace Sys2Proof

/-- `a ++ b` of R12, `(a << 8) | b`: the word with high byte `hi` and low byte `lo`. -/
def wordOfBytes (hi lo : Byte) : Word := (hi.setWidth 16 <<< 8) ||| lo.setWidth 16

/-- Bits 15..8 of a word (R58). -/
def highByte (v : Word) : Byte := v.extractLsb' 8 8

/-- Bits 7..0 of a word, `trunc_8` of R12. -/
def lowByte (v : Word) : Byte := v.extractLsb' 0 8

/-- Does an operand follow the opcode? Exactly from 0x12 on (R80). -/
def requiresOperand (op : Byte) : Bool := decide (0x12 ≤ op.toNat)

/-! ### The decoder -/

/-- The addressing mode with number `aaa`, for `aaa` from 0 to 7 (R130). -/
def Mode.ofCode : Nat → Mode
  | 0 => .immediate
  | 1 => .direct
  | 2 => .indirect
  | 3 => .stackRelative
  | 4 => .stackDeferred
  | 5 => .indexed
  | 6 => .stackIndexed
  | _ => .stackDeferredIndexed

/-- The index bit from opcode bit 0 (R82). -/
def Index.ofCode : Nat → Index
  | 0 => .plain
  | _ => .indexed

/-- Opcodes 0x00 to 0x11 (R84, R85); called only below 0x12. -/
def decodeUnary : Nat → Instr
  | 0x00 => .halt
  | 0x01 => .ret
  | 0x02 => .ret02
  | 0x03 => .movspa
  | 0x04 => .movflga
  | 0x05 => .movaflg
  | 0x06 => .nota
  | 0x07 => .notx
  | 0x08 => .nega
  | 0x09 => .negx
  | 0x0A => .asla
  | 0x0B => .aslx
  | 0x0C => .asra
  | 0x0D => .asrx
  | 0x0E => .rola
  | 0x0F => .rolx
  | 0x10 => .rora
  | _ => .rorx

/-- Opcodes 0x12 to 0x25, by pair number (R86); called only with a pair number from 0 to 9. -/
def decodeBranch (k : Nat) (ix : Index) (w : Word) : Instr :=
  match k with
  | 0 => .br ix w
  | 1 => .brle ix w
  | 2 => .brlt ix w
  | 3 => .breq ix w
  | 4 => .brne ix w
  | 5 => .brge ix w
  | 6 => .brgt ix w
  | 7 => .brv ix w
  | 8 => .brc ix w
  | _ => .call ix w

/-- Opcodes 0x26 to 0x4F: the decoder's verdict `Unknown` (R89, R106), by row of the opcode table. -/
def decodeUnknown (op : Byte) (w : Word) : Instr :=
  if op.toNat < 0x28 then .unknown26 op w
  else if op.toNat < 0x30 then .unknown28 op w
  else if op.toNat < 0x40 then .unknown30 op w
  else .unknown40 op w

/-- Opcodes 0x50 to 0xFF, by group of eight (R87, R88); called only with a group from 0 to 21. -/
def decodeGroup (g : Nat) (m : Mode) (w : Word) : Instr :=
  match g with
  | 0 => .addsp m w
  | 1 => .subsp m w
  | 2 => .adda m w
  | 3 => .addx m w
  | 4 => .suba m w
  | 5 => .subx m w
  | 6 => .anda m w
  | 7 => .andx m w
  | 8 => .ora m w
  | 9 => .orx m w
  | 10 => .cpwa m w
  | 11 => .cpwx m w
  | 12 => .cpba m w
  | 13 => .cpbx m w
  | 14 => .ldwa m w
  | 15 => .ldwx m w
  | 16 => .ldba m w
  | 17 => .ldbx m w
  | 18 => .stwa m w
  | 19 => .stwx m w
  | 20 => .stba m w
  | _ => .stbx m w

/-- The instruction an opcode byte selects, with the operand word that follows it where one does
(R104). It is total on the 256 opcodes (R91) and a function of the opcode alone but for the operand
it carries along (R105). -/
def decodeOp (op : Byte) (w : Word) : Instr :=
  if op.toNat < 0x12 then decodeUnary op.toNat
  else if op.toNat < 0x26 then
    decodeBranch ((op.toNat - 0x12) / 2) (Index.ofCode (op.toNat % 2)) w
  else if op.toNat < 0x50 then decodeUnknown op w
  else decodeGroup ((op.toNat - 0x50) / 8) (Mode.ofCode (op.toNat % 8)) w

/-- Why a list of bytes is no instruction. No opcode is a reason: every byte selects a row (R91). The
machine never meets one of these, since its fetch reads as many bytes as the opcode asks for. -/
inductive DecodeError where
  /-- there is no opcode byte -/
  | noOpcode
  /-- the opcode takes a two-byte operand and fewer bytes follow -/
  | operandMissing (op : Byte)
deriving DecidableEq, Repr

/-- The instruction with opcode `op` and its operand at the head of a list of bytes (R83). -/
def decodeWithOperand (op : Byte) : List Byte → Except DecodeError (Instr × List Byte)
  | hi :: lo :: rest => .ok (decodeOp op (wordOfBytes hi lo), rest)
  | [_] => .error (.operandMissing op)
  | [] => .error (.operandMissing op)

/-- The instruction at the head of a list of bytes, and the bytes after it (R80, R81). -/
def decode : List Byte → Except DecodeError (Instr × List Byte)
  | [] => .error .noOpcode
  | op :: rest => if requiresOperand op then decodeWithOperand op rest else .ok (decodeOp op 0, rest)

/-! ### The encoder -/

/-- The field `aaa` of an addressing mode (R130). -/
def Mode.code : Mode → Byte
  | .immediate => 0
  | .direct => 1
  | .indirect => 2
  | .stackRelative => 3
  | .stackDeferred => 4
  | .indexed => 5
  | .stackIndexed => 6
  | .stackDeferredIndexed => 7

/-- The field `a` of an index bit (R82). -/
def Index.code : Index → Byte
  | .plain => 0
  | .indexed => 1

/-- The opcode byte of an instruction (R84 to R89). -/
def opcodeOf : Instr → Byte
  | .halt => 0x00
  | .ret => 0x01
  | .ret02 => 0x02
  | .movspa => 0x03
  | .movflga => 0x04
  | .movaflg => 0x05
  | .nota => 0x06
  | .notx => 0x07
  | .nega => 0x08
  | .negx => 0x09
  | .asla => 0x0A
  | .aslx => 0x0B
  | .asra => 0x0C
  | .asrx => 0x0D
  | .rola => 0x0E
  | .rolx => 0x0F
  | .rora => 0x10
  | .rorx => 0x11
  | .br ix _ => 0x12 ||| ix.code
  | .brle ix _ => 0x14 ||| ix.code
  | .brlt ix _ => 0x16 ||| ix.code
  | .breq ix _ => 0x18 ||| ix.code
  | .brne ix _ => 0x1A ||| ix.code
  | .brge ix _ => 0x1C ||| ix.code
  | .brgt ix _ => 0x1E ||| ix.code
  | .brv ix _ => 0x20 ||| ix.code
  | .brc ix _ => 0x22 ||| ix.code
  | .call ix _ => 0x24 ||| ix.code
  | .unknown26 op _ => op
  | .unknown28 op _ => op
  | .unknown30 op _ => op
  | .unknown40 op _ => op
  | .addsp m _ => 0x50 ||| m.code
  | .subsp m _ => 0x58 ||| m.code
  | .adda m _ => 0x60 ||| m.code
  | .addx m _ => 0x68 ||| m.code
  | .suba m _ => 0x70 ||| m.code
  | .subx m _ => 0x78 ||| m.code
  | .anda m _ => 0x80 ||| m.code
  | .andx m _ => 0x88 ||| m.code
  | .ora m _ => 0x90 ||| m.code
  | .orx m _ => 0x98 ||| m.code
  | .cpwa m _ => 0xA0 ||| m.code
  | .cpwx m _ => 0xA8 ||| m.code
  | .cpba m _ => 0xB0 ||| m.code
  | .cpbx m _ => 0xB8 ||| m.code
  | .ldwa m _ => 0xC0 ||| m.code
  | .ldwx m _ => 0xC8 ||| m.code
  | .ldba m _ => 0xD0 ||| m.code
  | .ldbx m _ => 0xD8 ||| m.code
  | .stwa m _ => 0xE0 ||| m.code
  | .stwx m _ => 0xE8 ||| m.code
  | .stba m _ => 0xF0 ||| m.code
  | .stbx m _ => 0xF8 ||| m.code

/-- The operand word of an instruction of format N; none in format U (R81). -/
def operandOf : Instr → Option Word
  | .halt => none
  | .ret => none
  | .ret02 => none
  | .movspa => none
  | .movflga => none
  | .movaflg => none
  | .nota => none
  | .notx => none
  | .nega => none
  | .negx => none
  | .asla => none
  | .aslx => none
  | .asra => none
  | .asrx => none
  | .rola => none
  | .rolx => none
  | .rora => none
  | .rorx => none
  | .br _ w => some w
  | .brle _ w => some w
  | .brlt _ w => some w
  | .breq _ w => some w
  | .brne _ w => some w
  | .brge _ w => some w
  | .brgt _ w => some w
  | .brv _ w => some w
  | .brc _ w => some w
  | .call _ w => some w
  | .unknown26 _ w => some w
  | .unknown28 _ w => some w
  | .unknown30 _ w => some w
  | .unknown40 _ w => some w
  | .addsp _ w => some w
  | .subsp _ w => some w
  | .adda _ w => some w
  | .addx _ w => some w
  | .suba _ w => some w
  | .subx _ w => some w
  | .anda _ w => some w
  | .andx _ w => some w
  | .ora _ w => some w
  | .orx _ w => some w
  | .cpwa _ w => some w
  | .cpwx _ w => some w
  | .cpba _ w => some w
  | .cpbx _ w => some w
  | .ldwa _ w => some w
  | .ldwx _ w => some w
  | .ldba _ w => some w
  | .ldbx _ w => some w
  | .stwa _ w => some w
  | .stwx _ w => some w
  | .stba _ w => some w
  | .stbx _ w => some w

/-- The bytes of an instruction: the opcode, then the operand with its high byte first (R81, R83). -/
def encode (i : Instr) : List Byte :=
  opcodeOf i ::
    match operandOf i with
    | none => []
    | some w => [highByte w, lowByte w]

/-! ### The opcode table -/

/-- One row of spec/opcode_table.json: the opcodes `op` with `op &&& mask = base`. -/
structure OpcodeRow where
  mnemonic : String
  base : Byte
  mask : Byte
deriving DecidableEq, Repr

/-- Does a row hold this opcode? -/
def OpcodeRow.holds (r : OpcodeRow) (op : Byte) : Bool := op &&& r.mask == r.base

/-- The rows of format U (R84, R85). -/
def unaryRows : List OpcodeRow :=
  [⟨"HALT", 0x00, 0xFF⟩,
   ⟨"RET", 0x01, 0xFF⟩,
   ⟨"RET__0x02__RETTR_in_Pep_9", 0x02, 0xFF⟩,
   ⟨"MOVSPA", 0x03, 0xFF⟩,
   ⟨"MOVFLGA", 0x04, 0xFF⟩,
   ⟨"MOVAFLG", 0x05, 0xFF⟩,
   ⟨"NOTA", 0x06, 0xFF⟩,
   ⟨"NOTX", 0x07, 0xFF⟩,
   ⟨"NEGA", 0x08, 0xFF⟩,
   ⟨"NEGX", 0x09, 0xFF⟩,
   ⟨"ASLA", 0x0A, 0xFF⟩,
   ⟨"ASLX", 0x0B, 0xFF⟩,
   ⟨"ASRA", 0x0C, 0xFF⟩,
   ⟨"ASRX", 0x0D, 0xFF⟩,
   ⟨"ROLA", 0x0E, 0xFF⟩,
   ⟨"ROLX", 0x0F, 0xFF⟩,
   ⟨"RORA", 0x10, 0xFF⟩,
   ⟨"RORX", 0x11, 0xFF⟩]

/-- The branches and CALL (R86). -/
def branchRows : List OpcodeRow :=
  [⟨"BR", 0x12, 0xFE⟩,
   ⟨"BRLE", 0x14, 0xFE⟩,
   ⟨"BRLT", 0x16, 0xFE⟩,
   ⟨"BREQ", 0x18, 0xFE⟩,
   ⟨"BRNE", 0x1A, 0xFE⟩,
   ⟨"BRGE", 0x1C, 0xFE⟩,
   ⟨"BRGT", 0x1E, 0xFE⟩,
   ⟨"BRV", 0x20, 0xFE⟩,
   ⟨"BRC", 0x22, 0xFE⟩,
   ⟨"CALL", 0x24, 0xFE⟩]

/-- The rows of the unknown opcodes (R89). -/
def unknownRows : List OpcodeRow :=
  [⟨"UNKNOWN", 0x26, 0xFE⟩,
   ⟨"UNKNOWN", 0x28, 0xF8⟩,
   ⟨"UNKNOWN", 0x30, 0xF0⟩,
   ⟨"UNKNOWN", 0x40, 0xF0⟩]

/-- Non-unary arithmetic (R87). -/
def arithRows : List OpcodeRow :=
  [⟨"ADDSP", 0x50, 0xF8⟩,
   ⟨"SUBSP", 0x58, 0xF8⟩,
   ⟨"ADDA", 0x60, 0xF8⟩,
   ⟨"ADDX", 0x68, 0xF8⟩,
   ⟨"SUBA", 0x70, 0xF8⟩,
   ⟨"SUBX", 0x78, 0xF8⟩,
   ⟨"ANDA", 0x80, 0xF8⟩,
   ⟨"ANDX", 0x88, 0xF8⟩,
   ⟨"ORA", 0x90, 0xF8⟩,
   ⟨"ORX", 0x98, 0xF8⟩]

/-- Compare, load and store (R88). -/
def dataRows : List OpcodeRow :=
  [⟨"CPWA", 0xA0, 0xF8⟩,
   ⟨"CPWX", 0xA8, 0xF8⟩,
   ⟨"CPBA", 0xB0, 0xF8⟩,
   ⟨"CPBX", 0xB8, 0xF8⟩,
   ⟨"LDWA", 0xC0, 0xF8⟩,
   ⟨"LDWX", 0xC8, 0xF8⟩,
   ⟨"LDBA", 0xD0, 0xF8⟩,
   ⟨"LDBX", 0xD8, 0xF8⟩,
   ⟨"STWA", 0xE0, 0xF8⟩,
   ⟨"STWX", 0xE8, 0xF8⟩,
   ⟨"STBA", 0xF0, 0xF8⟩,
   ⟨"STBX", 0xF8, 0xF8⟩]

/-- The opcode table, in its own order. -/
def opcodeTable : List OpcodeRow :=
  unaryRows ++ branchRows ++ unknownRows ++ arithRows ++ dataRows

/-- The mnemonic of an instruction, as the table spells it. -/
def mnemonicOf : Instr → String
  | .halt => "HALT"
  | .ret => "RET"
  | .ret02 => "RET__0x02__RETTR_in_Pep_9"
  | .movspa => "MOVSPA"
  | .movflga => "MOVFLGA"
  | .movaflg => "MOVAFLG"
  | .nota => "NOTA"
  | .notx => "NOTX"
  | .nega => "NEGA"
  | .negx => "NEGX"
  | .asla => "ASLA"
  | .aslx => "ASLX"
  | .asra => "ASRA"
  | .asrx => "ASRX"
  | .rola => "ROLA"
  | .rolx => "ROLX"
  | .rora => "RORA"
  | .rorx => "RORX"
  | .br _ _ => "BR"
  | .brle _ _ => "BRLE"
  | .brlt _ _ => "BRLT"
  | .breq _ _ => "BREQ"
  | .brne _ _ => "BRNE"
  | .brge _ _ => "BRGE"
  | .brgt _ _ => "BRGT"
  | .brv _ _ => "BRV"
  | .brc _ _ => "BRC"
  | .call _ _ => "CALL"
  | .unknown26 _ _ => "UNKNOWN"
  | .unknown28 _ _ => "UNKNOWN"
  | .unknown30 _ _ => "UNKNOWN"
  | .unknown40 _ _ => "UNKNOWN"
  | .addsp _ _ => "ADDSP"
  | .subsp _ _ => "SUBSP"
  | .adda _ _ => "ADDA"
  | .addx _ _ => "ADDX"
  | .suba _ _ => "SUBA"
  | .subx _ _ => "SUBX"
  | .anda _ _ => "ANDA"
  | .andx _ _ => "ANDX"
  | .ora _ _ => "ORA"
  | .orx _ _ => "ORX"
  | .cpwa _ _ => "CPWA"
  | .cpwx _ _ => "CPWX"
  | .cpba _ _ => "CPBA"
  | .cpbx _ _ => "CPBX"
  | .ldwa _ _ => "LDWA"
  | .ldwx _ _ => "LDWX"
  | .ldba _ _ => "LDBA"
  | .ldbx _ _ => "LDBX"
  | .stwa _ _ => "STWA"
  | .stwx _ _ => "STWX"
  | .stba _ _ => "STBA"
  | .stbx _ _ => "STBX"

/-! ### Words numbered as the opcode table numbers them -/

/-- The three bytes of an instruction whose bits are the low `nbits` bits of `w`, the first byte
lowest, every bit above them 0. -/
def tableBytes (nbits w : Nat) : List Byte :=
  let v := w % 2 ^ nbits
  [BitVec.ofNat 8 v, BitVec.ofNat 8 (v / 2 ^ 8), BitVec.ofNat 8 (v / 2 ^ 16)]

/-- The instruction the decoder reads from those bytes. -/
def decodeTableWord (nbits w : Nat) : Option Instr :=
  match decode (tableBytes nbits w) with
  | .ok (i, _) => some i
  | .error _ => none

end Sys2Proof
end

