-- ==== Sys2Proof/Machine/State.lean ====
section
/-!
DEFINITION. The machine's state: exactly the tuple of 10_state.md R33, and its run outcome (R17,
00_scope.md); the two fatal errors (60_exceptions.md R300); the refusals; the state after reset.
-/

namespace Sys2Proof.Machine

/-- Bytes by index: pairs of an index and a byte. The canonical form (`Memory.wf`, Machine/Memory.lean)
lists rising indexes and no byte 0x00; an index that is not listed reads 0x00. -/
abbrev Memory := List Host.Cell

/-- The run outcome a step leaves behind (R17); the third, Fault, ends the step itself. -/
inductive RunStatus where
  /-- `Continue`: the run loop goes on -/
  | continuing
  /-- `Halted`: the loop's predicate was false, so the run has ended -/
  | halted
deriving DecidableEq, Repr

/-- The machine state (R33). -/
structure State where
  /-- the accumulator A (R20) -/
  a : Word
  /-- the index register X (R21) -/
  x : Word
  /-- the program counter PC (R23) -/
  pc : Word
  /-- the stack pointer SP (R25) -/
  sp : Word
  /-- the flag N, negative (R26) -/
  n : Bool
  /-- the flag Z, zero (R26) -/
  z : Bool
  /-- the flag V, overflow (R26) -/
  v : Bool
  /-- the flag C, carry (R26) -/
  c : Bool
  /-- OpCode, the last fetched instruction byte (R28) -/
  opCode : Byte
  /-- Operand, the last fetched operand word (R29) -/
  operand : Word
  /-- the halt flag HALT (R30), which no rule sets -/
  halt : Bool
  /-- Ram, addresses 0 to 65535 (R51) -/
  ram : Memory
  /-- StdIn, indexes 0 to 255 (R52) -/
  stdIn : Memory
  /-- the cursor of StdIn (R53) -/
  inCur : Byte
  /-- StdOut, indexes 0 to 255 (R52) -/
  stdOut : Memory
  /-- the cursor of StdOut (R53) -/
  outCur : Byte
  /-- the run outcome (R17, R33) -/
  status : RunStatus
deriving DecidableEq, Repr

/-- The two fatal errors (R300). Each records the opcode and the state after the faulting
instruction's fetch (R303). -/
inductive Fault where
  /-- Cause code 1 (R301): raised by the four UNKNOWN instructions, opcodes 0x26 to 0x4F. Safe: the
  spec's own end of the run. -/
  | unknownOpcode (opcode : Byte) (s : State)
  /-- Cause code 2 (R302): raised by STWA, STWX, STBA and STBX in immediate mode. Safe: the spec's own
  end of the run. -/
  | invalidStoreTarget (opcode : Byte) (s : State)
deriving DecidableEq, Repr

/-- What the model turns away. The core itself refuses nothing (R17). -/
inductive Refusal where
  /-- An instruction without a meaning: no arm of `exec` answers it. Safe. -/
  | notModelled (mnemonic : String)
  /-- Raised by the host operation LoadProgram for an image longer than `P_MAX_IMAGE` bytes (R331).
  Safe: the spec refuses it. -/
  | imageTooLong (length : Nat)
deriving DecidableEq, Repr

/-- The machine right after reset: construction under `P_INIT = all_zero` (R333), then `Initialize`
(R330). PC, A, X, SP and HALT are what `Initialize` writes; DESIGN CHOICE: every other element has the
value of the default construction (assumption log 5 and 6, unsafe), and the run goes on (log 7). -/
def State.reset : State where
  a := 0
  x := 0
  pc := 0
  sp := 0xFB8F
  n := false
  z := false
  v := false
  c := false
  opCode := 0
  operand := 0
  halt := false
  ram := []
  stdIn := []
  inCur := 0
  stdOut := []
  outCur := 0
  status := .continuing

end Sys2Proof.Machine
end

