-- ==== Sys2Proof/Machine/Flags.lean ====
section
/-!
DEFINITION. The `flag_compute` sub-block (42_flag_alu.md R150 to R156) and the arithmetic-logic unit
(R157 to R164): pure functions of their arguments. "Every instruction that sets flags must route
through them" (R155).
-/

namespace Sys2Proof.Machine

/-! ### Flag compute -/

/-- R150: bit 15. -/
def isNegative (v : Word) : Bool := v.getLsbD 15

/-- R151: equality with zero. -/
def isZero (v : Word) : Bool := v == 0

/-- R152: the sum over the integers exceeds 0xFFFF. -/
def isCarry (a b : Word) : Bool := decide (a.toNat + b.toNat > 0xFFFF)

/-- R153: the operands have one sign and the truncated sum the other. -/
def isOverflow (a b : Word) : Bool :=
  a.getLsbD 15 == b.getLsbD 15 && (a + b).getLsbD 15 != a.getLsbD 15

/-- R154: bit 15 before and after differ. -/
def signChange (before after : Word) : Bool := before.getLsbD 15 != after.getLsbD 15

/-! ### Arithmetic-logic unit -/

/-- R157. -/
def add16 (a b : Word) : Word := a + b

/-- R158. -/
def and16 (a b : Word) : Word := a &&& b

/-- R158. -/
def or16 (a b : Word) : Word := a ||| b

/-- R159: each bit inverted. -/
def not16 (v : Word) : Word := ~~~v

/-- R160: two's-complement negation. -/
def neg16 (v : Word) : Word := ~~~v + 1

/-- R156: the minuend plus the negated subtrahend. -/
def sub16 (a b : Word) : Word := add16 a (neg16 b)

/-- R156: V of a subtraction. -/
def subV (a b : Word) : Bool := isOverflow a (neg16 b)

/-- R156: C of a subtraction. -/
def subC (a b : Word) : Bool := isCarry a (neg16 b)

/-- The carry-in of a rotate as a word: 1 when C is true and 0 otherwise (R163). -/
def carryIn (c : Bool) : Word := if c then 1 else 0

/-- R161: the result, and the evicted bit 15. -/
def asl16 (v : Word) : Word × Bool := (v <<< 1, v.getLsbD 15)

/-- R162: bit 15 is kept; the evicted bit is bit 0. -/
def asr16 (v : Word) : Word × Bool := ((v >>> 1) ||| (v &&& 0x8000), v.getLsbD 0)

/-- R163: the carry-in fills bit 0; the evicted bit is bit 15. -/
def rol16 (v : Word) (c : Bool) : Word × Bool := ((v <<< 1) ||| carryIn c, v.getLsbD 15)

/-- R164: the carry-in fills bit 15; the evicted bit is bit 0. -/
def ror16 (v : Word) (c : Bool) : Word × Bool := ((v >>> 1) ||| (carryIn c <<< 15), v.getLsbD 0)

/-! ### V of the unary instructions -/

/-- The unary instructions that write V by R154. -/
inductive UnaryOp where
  | neg
  | asl
  | asr
  | rol
  | ror
deriving DecidableEq, Repr

/-- R154: V after a unary instruction, under each setting of `P_UNARY_V`. `old` is V before it. -/
def unaryOverflow (p : UnaryV) (op : UnaryOp) (old : Bool) (before after : Word) : Bool :=
  match p with
  | .signChange => signChange before after
  | .pep9Overflow =>
    match op with
    | .neg => before == 0x8000
    | .asl => before.getLsbD 15 != before.getLsbD 14
    | .asr => old
    | .rol => old
    | .ror => old

/-! ### The packed flags of MOVFLGA and MOVAFLG -/

/-- R191: bit 0 is C, bit 1 V, bit 2 Z, bit 3 N. -/
def packFlags (n z v c : Bool) : Word :=
  (if n then 8 else 0) ||| (if z then 4 else 0) ||| (if v then 2 else 0) ||| (if c then 1 else 0)

/-- R191: A after MOVFLGA, under each setting of `P_MOVFLGA`. -/
def movFlgAResult (p : MovFlgA) (a low : Word) : Word :=
  match p with
  | .clear => low
  | .keep => (a &&& 0xFFF0) ||| low

/-- R192: does A have a bit in the mask? -/
def testMask (a mask : Word) : Bool := (a &&& mask) != 0

/-- R192: the mask of bit `k`'s flag, under each setting of `P_MOVAFLG`. -/
def flagMask (p : MovAFlg) (k : Nat) : Word :=
  match p with
  | .cumulativeMask => BitVec.ofNat 16 (2 ^ (k + 1) - 1)
  | .extract => BitVec.ofNat 16 (2 ^ k)

end Sys2Proof.Machine
end

