-- ==== Sys2Proof/Machine/Memory.lean ====
section
/-!
DEFINITION. The byte store behind `Ram`, `StdIn` and `StdOut` (20_memory.md R51, R52): reading,
writing, the canonical form, and the raw copy of LoadProgram. An address is a number here; the rules
that make one from a word, and the two ports, are in Machine/Ops.lean.
-/

namespace Sys2Proof.Machine

/-- What an index that is not listed reads as: 0x00, the byte of the default construction (R33).
DESIGN CHOICE, assumption log 6, unsafe. -/
def Memory.blank : Byte := 0

/-- The byte at an index. -/
def Memory.read : Memory → Nat → Byte
  | [], _ => Memory.blank
  | (k, b) :: m, i => if k = i then b else Memory.read m i

/-- Every entry but those at `i`. -/
def Memory.erase (m : Memory) (i : Nat) : Memory := m.filter fun e => e.1 != i

/-- Put an entry before the first larger index. -/
def Memory.insert : Memory → Nat → Byte → Memory
  | [], i, b => [(i, b)]
  | (k, w) :: m, i, b =>
    if i < k then (i, b) :: (k, w) :: m else (k, w) :: Memory.insert m i b

/-- The store with byte `b` at index `i`. Writing what an unlisted index reads as removes the entry. -/
def Memory.write (m : Memory) (i : Nat) (b : Byte) : Memory :=
  if b = Memory.blank then Memory.erase m i else Memory.insert (Memory.erase m i) i b

/-- The canonical form from index `lo` on: rising indexes from `lo`, below `bound`, no blank byte. -/
def Memory.wfFrom (bound : Nat) : Nat → Memory → Bool
  | _, [] => true
  | lo, (k, b) :: m =>
    decide (lo ≤ k) && decide (k < bound) && b != Memory.blank && Memory.wfFrom bound (k + 1) m

/-- The canonical form of a store of `bound` bytes. -/
def Memory.wf (bound : Nat) (m : Memory) : Bool := Memory.wfFrom bound 0 m

/-- Copy bytes to consecutive indexes from `i` on. -/
def Memory.load : Memory → Nat → List Byte → Memory
  | m, _, [] => m
  | m, i, b :: bs => Memory.load (Memory.write m i b) (i + 1) bs

/-- The number of bytes of `Ram` (R50). -/
def ramSize : Nat := 65536

/-- The number of bytes of each ring buffer (R52). -/
def bufferSize : Nat := 256

end Sys2Proof.Machine
end

