-- ==== Sys2Proof/Machine/Ops.lean ====
section
/-!
DEFINITION. The named operations of the machine: the configuration in force, the register file, the
access primitives of the memory subsystem with their two ports, the fetch unit, the two fatal errors,
the run loop's predicate, and where the bytes of the next instruction lie.
-/

namespace Sys2Proof.Machine

/-- The outcome of an instruction. -/
abbrev Result := Host.Outcome State Fault Refusal

/-- The configuration in force: the default of every parameter (R10). DESIGN CHOICE: the spec leaves
these points open and fixes the defaults (assumption log 1 to 5 and 10, unsafe). -/
def config : Config where
  byteImm := .fullOperand
  unaryV := .signChange
  movFlgA := .clear
  movAFlg := .cumulativeMask
  init := .allZero
  maxImage := 65536

/-! ### Register file -/

/-- The register an instruction names: the two general registers of R14 and R22, and SP, the register
of the SP arithmetic groups (R83). -/
inductive Reg where
  | a
  | x
  | sp
deriving DecidableEq, Repr

/-- `Reg(r)` (R14). -/
def State.getReg (s : State) : Reg → Word
  | .a => s.a
  | .x => s.x
  | .sp => s.sp

/-- `Reg(r) <- v` (R14). -/
def State.setReg (s : State) (r : Reg) (v : Word) : State :=
  match r with
  | .a => { s with a := v }
  | .x => { s with x := v }
  | .sp => { s with sp := v }

/-- `PC <- v`. -/
def State.setPc (s : State) (v : Word) : State := { s with pc := v }

/-- `OpCode <- b` (R28). -/
def State.setOpCode (s : State) (b : Byte) : State := { s with opCode := b }

/-- `Operand <- v` (R29). -/
def State.setOperand (s : State) (v : Word) : State := { s with operand := v }

/-- Write N and Z from a value (R150, R151). -/
def State.setNZ (s : State) (v : Word) : State := { s with n := isNegative v, z := isZero v }

/-- Write V. -/
def State.setV (s : State) (v : Bool) : State := { s with v := v }

/-- Write C. -/
def State.setC (s : State) (c : Bool) : State := { s with c := c }

/-! ### Memory subsystem -/

/-- The input port (R54). -/
def inPort : Word := 0xFC15

/-- The output port (R54). -/
def outPort : Word := 0xFC16

/-- `InCur <- (InCur + 1) mod 256` (R55). -/
def State.advanceIn (s : State) : State := { s with inCur := s.inCur + 1 }

/-- `Ram[a] <- b` (R56). -/
def State.storeRam (s : State) (a : Word) (b : Byte) : State :=
  { s with ram := s.ram.write a.toNat b }

/-- `StdOut[OutCur] <- b`, then `OutCur <- (OutCur + 1) mod 256` (R56). -/
def State.emit (s : State) (b : Byte) : State :=
  { s with stdOut := s.stdOut.write s.outCur.toNat b, outCur := s.outCur + 1 }

/-- `MemRead(a, 1)` (R55): the byte, and the state the read leaves. -/
def readByte (s : State) (a : Word) : Byte × State :=
  if a = inPort then (s.stdIn.read s.inCur.toNat, s.advanceIn) else (s.ram.read a.toNat, s)

/-- `MemWrite(a, 1, b)` (R56). -/
def writeByte (s : State) (a : Word) (b : Byte) : State :=
  if a = outPort then s.emit b else s.storeRam a b

/-- `MemRead(a, 2)` (R57): the high byte first, from the lower address; the address wraps. -/
def readWord (s : State) (a : Word) : Word × State :=
  let hi := readByte s a
  let lo := readByte hi.2 (a + 1)
  (wordOfBytes hi.1 lo.1, lo.2)

/-- `MemWrite(a, 2, v)` (R58): the high byte first, to the lower address; the address wraps. -/
def writeWord (s : State) (a : Word) (v : Word) : State :=
  writeByte (writeByte s a (highByte v)) (a + 1) (lowByte v)

/-! ### Fetch unit -/

/-- The first half of Fetch (R101): the opcode byte, and PC past it. -/
def fetchOpcode (s : State) : State :=
  let p := readByte s s.pc
  (p.2.setOpCode p.1).setPc (s.pc + 1)

/-- The second half of Fetch (R101): the operand word, and PC past it. -/
def fetchOperand (s : State) : State :=
  let p := readWord s s.pc
  (p.2.setOperand p.1).setPc (s.pc + 2)

/-- Fetch (R101). Below 0x12 it leaves Operand as it is (R102); it cannot fault (R103). -/
def fetch (s : State) : State :=
  if requiresOperand (fetchOpcode s).opCode then fetchOperand (fetchOpcode s) else fetchOpcode s

/-! ### Fatal errors: the machine's exceptions -/

/-- The two error kinds (R300). -/
inductive FatalKind where
  | unknownOpcode
  | invalidStoreTarget
deriving DecidableEq, Repr

/-- The cause codes, the spec's own numbering (R301, R302, R304). -/
def FatalKind.code : FatalKind → Nat
  | .unknownOpcode => 1
  | .invalidStoreTarget => 2

/-- `raise Fatal(kind, OpCode)` (R303): the step ends with the kind, the opcode and the state as the
fetch left it. Nothing is saved, no flag or mode changes and control goes nowhere (R308); there is no
return from it (R309). -/
def raiseFatal (k : FatalKind) (s : State) : Result :=
  match k with
  | .unknownOpcode => .fault (.unknownOpcode s.opCode s)
  | .invalidStoreTarget => .fault (.invalidStoreTarget s.opCode s)

/-! ### The run loop's predicate -/

/-- `((not HALT) and OpCode != 0x00) or PC == 0x0000` (R110). -/
def State.continues (s : State) : Bool := (!s.halt && s.opCode != 0) || s.pc == 0

/-- The run outcome of a state between steps (R17, R112): what the loop's next test answers. -/
def State.testLoop (s : State) : State :=
  { s with status := if s.continues then .continuing else .halted }

/-! ### Where the next instruction's bytes lie -/

/-- The state in which the next byte read from `a` gives `b` (R55): the entry of StdIn at the cursor
where `a` is the input port, the byte of Ram anywhere else. -/
def placeByte (s : State) (a : Word) (b : Byte) : State :=
  if a = inPort then { s with stdIn := s.stdIn.write s.inCur.toNat b } else s.storeRam a b

/-- The state in which the bytes from `a` on give `bs`. -/
def placeBytes : State → Word → List Byte → State
  | s, _, [] => s
  | s, a, b :: bs => placeBytes (placeByte s a b) (a + 1) bs

/-- The state whose next step fetches `bs` at its PC: the bytes in place, and the run going on. -/
def placeInstruction (s : State) (bs : List Byte) : State :=
  { placeBytes s s.pc bs with status := .continuing }

end Sys2Proof.Machine
end

