-- ==== Sys2Proof/Machine/Operands.lean ====
section
/-!
DEFINITION. The addressing-mode resolver (41_addressing_modes.md R130 to R137) and the branch
conditions and targets (48_branch.md R280, R281).
-/

namespace Sys2Proof.Machine

/-- The access width `w` (R14). -/
inductive Width where
  | byte
  | word
deriving DecidableEq, Repr

/-- `EA(aaa)` (R130), with the state its pointer read leaves (R134, R135); none in immediate mode. -/
def effectiveAddress (m : Mode) (operand : Word) (s : State) : Option (Word × State) :=
  match m with
  | .immediate => none
  | .direct => some (operand, s)
  | .indirect => some (readWord s operand)
  | .stackRelative => some (s.sp + operand, s)
  | .stackDeferred => some (readWord s (s.sp + operand))
  | .indexed => some (operand + s.x, s)
  | .stackIndexed => some (s.sp + operand + s.x, s)
  | .stackDeferredIndexed => some (readWord s (s.sp + operand + s.x))

/-- What immediate mode yields (R131): the Operand, or for a byte access what `P_BYTE_IMM` says. -/
def immediateValue (p : ByteImm) (w : Width) (operand : Word) : Word :=
  match w, p with
  | .word, _ => operand
  | .byte, .fullOperand => operand
  | .byte, .lowByte => (lowByte operand).setWidth 16

/-- A data read at the access width, a byte zero-extended (R131). -/
def readData (w : Width) (s : State) (a : Word) : Word × State :=
  match w with
  | .word => readWord s a
  | .byte => ((readByte s a).1.setWidth 16, (readByte s a).2)

/-- The value of `ResolveLoad(aaa, w)` before its flag writes, and the state the reads leave. -/
def loadValue (cfg : Config) (m : Mode) (w : Width) (operand : Word) (s : State) : Word × State :=
  match effectiveAddress m operand s with
  | none => (immediateValue cfg.byteImm w operand, s)
  | some (ea, s1) => readData w s1 ea

/-- `ResolveLoad(aaa, w)` (R131): the value, and the state with N and Z written from it. -/
def resolveLoad (cfg : Config) (m : Mode) (w : Width) (operand : Word) (s : State) : Word × State :=
  let p := loadValue cfg m w operand s
  (p.1, p.2.setNZ p.1)

/-- `ResolveStore(aaa)` (R132): the address and the state its pointer read leaves, no flag written;
none in immediate mode, where the store raises InvalidStoreTarget. -/
def resolveStore (m : Mode) (operand : Word) (s : State) : Option (Word × State) :=
  effectiveAddress m operand s

/-- A data write at the access width; a byte write takes the value's low byte (R263, R264). -/
def writeData (w : Width) (s : State) (a : Word) (v : Word) : State :=
  match w with
  | .word => writeWord s a v
  | .byte => writeByte s a (lowByte v)

/-! ### Branches and CALL -/

/-- The nine conditions (R280). -/
inductive Cond where
  | always
  | le
  | lt
  | eq
  | ne
  | ge
  | gt
  | v
  | c
deriving DecidableEq, Repr

/-- `cond_k(N, Z, V, C)` (R280). -/
def Cond.holds (k : Cond) (s : State) : Bool :=
  match k with
  | .always => true
  | .le => s.n || s.z
  | .lt => s.n
  | .eq => s.z
  | .ne => !s.z
  | .ge => !s.n
  | .gt => !s.n && !s.z
  | .v => s.v
  | .c => s.c

/-- The target of a branch or CALL (R137, R281): Operand, or Operand + X; no memory is read. -/
def target (ix : Index) (operand : Word) (s : State) : Word :=
  match ix with
  | .plain => operand
  | .indexed => operand + s.x

end Sys2Proof.Machine
end

