-- ==== Sys2Proof/Machine/Branch.lean ====
section
/-!
DEFINITION. The branches (48_branch.md R280 to R290). A branch writes PC and nothing else, and never
faults.
-/

namespace Sys2Proof.Machine

/-- R281: PC takes the target where the condition holds, and stays past the branch otherwise. -/
def branchIf (k : Cond) (ix : Index) (operand : Word) (s : State) : State :=
  if k.holds s then s.setPc (target ix operand s) else s

/-- BR (R282). -/
def execBr (ix : Index) (operand : Word) (s : State) : Result :=
  .next (branchIf .always ix operand s)

/-- BRLE (R283). -/
def execBrle (ix : Index) (operand : Word) (s : State) : Result :=
  .next (branchIf .le ix operand s)

/-- BRLT (R284). -/
def execBrlt (ix : Index) (operand : Word) (s : State) : Result :=
  .next (branchIf .lt ix operand s)

/-- BREQ (R285). -/
def execBreq (ix : Index) (operand : Word) (s : State) : Result :=
  .next (branchIf .eq ix operand s)

/-- BRNE (R286). -/
def execBrne (ix : Index) (operand : Word) (s : State) : Result :=
  .next (branchIf .ne ix operand s)

/-- BRGE (R287). -/
def execBrge (ix : Index) (operand : Word) (s : State) : Result :=
  .next (branchIf .ge ix operand s)

/-- BRGT (R288). -/
def execBrgt (ix : Index) (operand : Word) (s : State) : Result :=
  .next (branchIf .gt ix operand s)

/-- BRV (R289). -/
def execBrv (ix : Index) (operand : Word) (s : State) : Result :=
  .next (branchIf .v ix operand s)

/-- BRC (R290). -/
def execBrc (ix : Index) (operand : Word) (s : State) : Result :=
  .next (branchIf .c ix operand s)

end Sys2Proof.Machine
end

