-- ==== Sys2Proof/Machine/Compare.lean ====
section
/-!
DEFINITION. Compare (46_compare.md R250): operand minus register, always of words, opcode bit 4 ignored.
-/

namespace Sys2Proof.Machine

/-- R250: N, Z, V and C of the operand minus the register; the result is discarded. -/
def compareReg (cfg : Config) (r : Reg) (m : Mode) (operand : Word) (s : State) : State :=
  let p := resolveLoad cfg m .word operand s
  let rv := p.2.getReg r
  ((p.2.setNZ (sub16 p.1 rv)).setV (subV p.1 rv)).setC (subC p.1 rv)

/-- CPWA (R250). -/
def execCpwa (m : Mode) (operand : Word) (s : State) : Result :=
  .next (compareReg config .a m operand s)

/-- CPWX (R250). -/
def execCpwx (m : Mode) (operand : Word) (s : State) : Result :=
  .next (compareReg config .x m operand s)

/-- CPBA (R250), a word compare. -/
def execCpba (m : Mode) (operand : Word) (s : State) : Result :=
  .next (compareReg config .a m operand s)

/-- CPBX (R250), a word compare. -/
def execCpbx (m : Mode) (operand : Word) (s : State) : Result :=
  .next (compareReg config .x m operand s)

end Sys2Proof.Machine
end

