-- ==== Sys2Proof/Machine/HaltCallReturn.lean ====
section
/-!
DEFINITION. HALT, the two returns and CALL (43_halt_call_return.md R170 to R174). A meaning runs on the
state the fetch left: PC is already past the instruction (R23).
-/

namespace Sys2Proof.Machine

/-- `PC <- MemRead(SP, 2); SP <- SP + 2` (R171). -/
def returnFromCall (s : State) : State :=
  let p := readWord s s.sp
  (p.2.setPc p.1).setReg .sp (s.sp + 2)

/-- R173: SP moves down by 2, the PC past the CALL is pushed, PC takes the target, which was computed
before (R339). -/
def callTo (t : Word) (s : State) : State :=
  (writeWord (s.setReg .sp (s.sp - 2)) (s.sp - 2) s.pc).setPc t

/-- HALT (R170): no effect; the run loop reads OpCode (R110). -/
def execHalt (s : State) : Result := .next s

/-- RET (R171). -/
def execRet (s : State) : Result := .next (returnFromCall s)

/-- Opcode 0x02 (R172): exactly the return of R171. -/
def execRet02 (s : State) : Result := .next (returnFromCall s)

/-- CALL (R173). -/
def execCall (ix : Index) (operand : Word) (s : State) : Result :=
  .next (callTo (target ix operand s) s)

end Sys2Proof.Machine
end

