-- ==== Sys2Proof/Machine/LoadStore.lean ====
section
/-!
DEFINITION. Load and store (47_load_store.md R260 to R264).
-/

namespace Sys2Proof.Machine

/-- R260, R261: the resolved value into the register; N and Z come from the resolution (R131). -/
def loadReg (cfg : Config) (r : Reg) (w : Width) (m : Mode) (operand : Word) (s : State) : State :=
  let p := resolveLoad cfg m w operand s
  p.2.setReg r p.1

/-- R263, R264: the register to the resolved address; no flag. In immediate mode the fatal error
InvalidStoreTarget, before any write (R302). -/
def storeReg (r : Reg) (w : Width) (m : Mode) (operand : Word) (s : State) : Result :=
  match resolveStore m operand s with
  | none => raiseFatal .invalidStoreTarget s
  | some (ea, s1) => .next (writeData w s1 ea (s1.getReg r))

/-- LDWA (R260). -/
def execLdwa (m : Mode) (operand : Word) (s : State) : Result :=
  .next (loadReg config .a .word m operand s)

/-- LDWX (R260). -/
def execLdwx (m : Mode) (operand : Word) (s : State) : Result :=
  .next (loadReg config .x .word m operand s)

/-- LDBA (R261). -/
def execLdba (m : Mode) (operand : Word) (s : State) : Result :=
  .next (loadReg config .a .byte m operand s)

/-- LDBX (R261). -/
def execLdbx (m : Mode) (operand : Word) (s : State) : Result :=
  .next (loadReg config .x .byte m operand s)

/-- STWA (R263). -/
def execStwa (m : Mode) (operand : Word) (s : State) : Result :=
  storeReg .a .word m operand s

/-- STWX (R263). -/
def execStwx (m : Mode) (operand : Word) (s : State) : Result :=
  storeReg .x .word m operand s

/-- STBA (R264). -/
def execStba (m : Mode) (operand : Word) (s : State) : Result :=
  storeReg .a .byte m operand s

/-- STBX (R264). -/
def execStbx (m : Mode) (operand : Word) (s : State) : Result :=
  storeReg .x .byte m operand s

end Sys2Proof.Machine
end

