-- ==== Sys2Proof/Machine/NonUnary.lean ====
section
/-!
DEFINITION. Non-unary arithmetic (45_nonunary_arith.md R220 to R226): the operand is resolved first, as
a word whatever opcode bit 4 is; the register is read after it. None of these faults.
-/

namespace Sys2Proof.Machine

/-- R221, R223: the register plus the operand; N, Z, V and C. -/
def addReg (cfg : Config) (r : Reg) (m : Mode) (operand : Word) (s : State) : State :=
  let p := resolveLoad cfg m .word operand s
  let a := p.2.getReg r
  let res := add16 a p.1
  (((p.2.setReg r res).setNZ res).setV (isOverflow a p.1)).setC (isCarry a p.1)

/-- R222, R224: the register minus the operand (R156); N, Z, V and C. -/
def subReg (cfg : Config) (r : Reg) (m : Mode) (operand : Word) (s : State) : State :=
  let p := resolveLoad cfg m .word operand s
  let a := p.2.getReg r
  let res := sub16 a p.1
  (((p.2.setReg r res).setNZ res).setV (subV a p.1)).setC (subC a p.1)

/-- R225: N and Z from the result; V and C unchanged. -/
def andReg (cfg : Config) (r : Reg) (m : Mode) (operand : Word) (s : State) : State :=
  let p := resolveLoad cfg m .word operand s
  let res := and16 (p.2.getReg r) p.1
  (p.2.setReg r res).setNZ res

/-- R226: N and Z from the result; V and C unchanged. -/
def orReg (cfg : Config) (r : Reg) (m : Mode) (operand : Word) (s : State) : State :=
  let p := resolveLoad cfg m .word operand s
  let res := or16 (p.2.getReg r) p.1
  (p.2.setReg r res).setNZ res

/-- ADDSP (R221). -/
def execAddsp (m : Mode) (operand : Word) (s : State) : Result :=
  .next (addReg config .sp m operand s)

/-- SUBSP (R222). -/
def execSubsp (m : Mode) (operand : Word) (s : State) : Result :=
  .next (subReg config .sp m operand s)

/-- ADDA (R223). -/
def execAdda (m : Mode) (operand : Word) (s : State) : Result :=
  .next (addReg config .a m operand s)

/-- ADDX (R223). -/
def execAddx (m : Mode) (operand : Word) (s : State) : Result :=
  .next (addReg config .x m operand s)

/-- SUBA (R224). -/
def execSuba (m : Mode) (operand : Word) (s : State) : Result :=
  .next (subReg config .a m operand s)

/-- SUBX (R224). -/
def execSubx (m : Mode) (operand : Word) (s : State) : Result :=
  .next (subReg config .x m operand s)

/-- ANDA (R225). -/
def execAnda (m : Mode) (operand : Word) (s : State) : Result :=
  .next (andReg config .a m operand s)

/-- ANDX (R225). -/
def execAndx (m : Mode) (operand : Word) (s : State) : Result :=
  .next (andReg config .x m operand s)

/-- ORA (R226). -/
def execOra (m : Mode) (operand : Word) (s : State) : Result :=
  .next (orReg config .a m operand s)

/-- ORX (R226). -/
def execOrx (m : Mode) (operand : Word) (s : State) : Result :=
  .next (orReg config .x m operand s)

end Sys2Proof.Machine
end

