-- ==== Sys2Proof/Machine/Unary.lean ====
section
/-!
DEFINITION. The unary instructions (44_unary.md R190 to R198). They have no operand and never fault.
-/

namespace Sys2Proof.Machine

/-- The register write and the N and Z every paired unary instruction makes (R193 to R198). -/
def writeUnary (r : Reg) (res : Word) (s : State) : State := (s.setReg r res).setNZ res

/-- R193: N and Z from the result; V and C unchanged. -/
def notReg (r : Reg) (s : State) : State := writeUnary r (not16 (s.getReg r)) s

/-- R194: N, Z and V; C unchanged. -/
def negReg (cfg : Config) (r : Reg) (s : State) : State :=
  let v := s.getReg r
  let res := neg16 v
  (writeUnary r res s).setV (unaryOverflow cfg.unaryV .neg s.v v res)

/-- R195 to R198: a shift or rotate writes N and Z from the result, V by R154 from the value before
and after, and C from the evicted bit. `p` is the result and the evicted bit. -/
def shiftReg (cfg : Config) (op : UnaryOp) (r : Reg) (p : Word × Bool) (s : State) : State :=
  ((writeUnary r p.1 s).setV (unaryOverflow cfg.unaryV op s.v (s.getReg r) p.1)).setC p.2

/-- R191: A takes the packed flags; no flag is written. -/
def movFlgA (cfg : Config) (s : State) : State :=
  s.setReg .a (movFlgAResult cfg.movFlgA s.a (packFlags s.n s.z s.v s.c))

/-- R192: each flag tests its mask of A; A is unchanged. -/
def movAFlg (cfg : Config) (s : State) : State :=
  { s with
    c := testMask s.a (flagMask cfg.movAFlg 0)
    v := testMask s.a (flagMask cfg.movAFlg 1)
    z := testMask s.a (flagMask cfg.movAFlg 2)
    n := testMask s.a (flagMask cfg.movAFlg 3) }

/-- MOVSPA (R190): no flag is written. -/
def execMovspa (s : State) : Result := .next (s.setReg .a s.sp)

/-- MOVFLGA (R191). -/
def execMovflga (s : State) : Result := .next (movFlgA config s)

/-- MOVAFLG (R192). -/
def execMovaflg (s : State) : Result := .next (movAFlg config s)

/-- NOTA (R193). -/
def execNota (s : State) : Result := .next (notReg .a s)

/-- NOTX (R193). -/
def execNotx (s : State) : Result := .next (notReg .x s)

/-- NEGA (R194). -/
def execNega (s : State) : Result := .next (negReg config .a s)

/-- NEGX (R194). -/
def execNegx (s : State) : Result := .next (negReg config .x s)

/-- ASLA (R195). -/
def execAsla (s : State) : Result := .next (shiftReg config .asl .a (asl16 s.a) s)

/-- ASLX (R195). -/
def execAslx (s : State) : Result := .next (shiftReg config .asl .x (asl16 s.x) s)

/-- ASRA (R196). -/
def execAsra (s : State) : Result := .next (shiftReg config .asr .a (asr16 s.a) s)

/-- ASRX (R196). -/
def execAsrx (s : State) : Result := .next (shiftReg config .asr .x (asr16 s.x) s)

/-- ROLA (R197). -/
def execRola (s : State) : Result := .next (shiftReg config .rol .a (rol16 s.a s.c) s)

/-- ROLX (R197). -/
def execRolx (s : State) : Result := .next (shiftReg config .rol .x (rol16 s.x s.c) s)

/-- RORA (R198). -/
def execRora (s : State) : Result := .next (shiftReg config .ror .a (ror16 s.a s.c) s)

/-- RORX (R198). -/
def execRorx (s : State) : Result := .next (shiftReg config .ror .x (ror16 s.x s.c) s)

end Sys2Proof.Machine
end

