-- ==== Sys2Proof/Machine/Unknown.lean ====
section
/-!
DEFINITION. The unknown opcodes, 0x26 to 0x4F (60_exceptions.md R301): each raises the fatal error
UnknownOpcode after its fetch has run in full. The opcode recorded is the register OpCode, which the
fetch has just written (R303), as for every fatal error.
-/

namespace Sys2Proof.Machine

/-- UNKNOWN, opcodes 0x26 and 0x27 (R301). -/
def execUnknown26 (_op : Byte) (_operand : Word) (s : State) : Result :=
  raiseFatal .unknownOpcode s

/-- UNKNOWN, opcodes 0x28 to 0x2F (R301). -/
def execUnknown28 (_op : Byte) (_operand : Word) (s : State) : Result :=
  raiseFatal .unknownOpcode s

/-- UNKNOWN, opcodes 0x30 to 0x3F (R301). -/
def execUnknown30 (_op : Byte) (_operand : Word) (s : State) : Result :=
  raiseFatal .unknownOpcode s

/-- UNKNOWN, opcodes 0x40 to 0x4F (R301). -/
def execUnknown40 (_op : Byte) (_operand : Word) (s : State) : Result :=
  raiseFatal .unknownOpcode s

end Sys2Proof.Machine
end

