-- ==== Sys2Proof/Machine/Dispatch.lean ====
section
/-!
DEFINITION. The execute dispatcher (40_fetch_decode_dispatch.md R107): one arm per instruction, each one
direct call of that instruction's meaning, on the state its fetch left.
-/

namespace Sys2Proof.Machine

def exec (i : Instr) (s : State) : Host.Outcome State Fault Refusal :=
  match i with
  | .halt => Sys2Proof.Machine.execHalt s
  | .ret => Sys2Proof.Machine.execRet s
  | .ret02 => Sys2Proof.Machine.execRet02 s
  | .movspa => Sys2Proof.Machine.execMovspa s
  | .movflga => Sys2Proof.Machine.execMovflga s
  | .movaflg => Sys2Proof.Machine.execMovaflg s
  | .nota => Sys2Proof.Machine.execNota s
  | .notx => Sys2Proof.Machine.execNotx s
  | .nega => Sys2Proof.Machine.execNega s
  | .negx => Sys2Proof.Machine.execNegx s
  | .asla => Sys2Proof.Machine.execAsla s
  | .aslx => Sys2Proof.Machine.execAslx s
  | .asra => Sys2Proof.Machine.execAsra s
  | .asrx => Sys2Proof.Machine.execAsrx s
  | .rola => Sys2Proof.Machine.execRola s
  | .rolx => Sys2Proof.Machine.execRolx s
  | .rora => Sys2Proof.Machine.execRora s
  | .rorx => Sys2Proof.Machine.execRorx s
  | .br ix operand => Sys2Proof.Machine.execBr ix operand s
  | .brle ix operand => Sys2Proof.Machine.execBrle ix operand s
  | .brlt ix operand => Sys2Proof.Machine.execBrlt ix operand s
  | .breq ix operand => Sys2Proof.Machine.execBreq ix operand s
  | .brne ix operand => Sys2Proof.Machine.execBrne ix operand s
  | .brge ix operand => Sys2Proof.Machine.execBrge ix operand s
  | .brgt ix operand => Sys2Proof.Machine.execBrgt ix operand s
  | .brv ix operand => Sys2Proof.Machine.execBrv ix operand s
  | .brc ix operand => Sys2Proof.Machine.execBrc ix operand s
  | .call ix operand => Sys2Proof.Machine.execCall ix operand s
  | .unknown26 op operand => Sys2Proof.Machine.execUnknown26 op operand s
  | .unknown28 op operand => Sys2Proof.Machine.execUnknown28 op operand s
  | .unknown30 op operand => Sys2Proof.Machine.execUnknown30 op operand s
  | .unknown40 op operand => Sys2Proof.Machine.execUnknown40 op operand s
  | .addsp mode operand => Sys2Proof.Machine.execAddsp mode operand s
  | .subsp mode operand => Sys2Proof.Machine.execSubsp mode operand s
  | .adda mode operand => Sys2Proof.Machine.execAdda mode operand s
  | .addx mode operand => Sys2Proof.Machine.execAddx mode operand s
  | .suba mode operand => Sys2Proof.Machine.execSuba mode operand s
  | .subx mode operand => Sys2Proof.Machine.execSubx mode operand s
  | .anda mode operand => Sys2Proof.Machine.execAnda mode operand s
  | .andx mode operand => Sys2Proof.Machine.execAndx mode operand s
  | .ora mode operand => Sys2Proof.Machine.execOra mode operand s
  | .orx mode operand => Sys2Proof.Machine.execOrx mode operand s
  | .cpwa mode operand => Sys2Proof.Machine.execCpwa mode operand s
  | .cpwx mode operand => Sys2Proof.Machine.execCpwx mode operand s
  | .cpba mode operand => Sys2Proof.Machine.execCpba mode operand s
  | .cpbx mode operand => Sys2Proof.Machine.execCpbx mode operand s
  | .ldwa mode operand => Sys2Proof.Machine.execLdwa mode operand s
  | .ldwx mode operand => Sys2Proof.Machine.execLdwx mode operand s
  | .ldba mode operand => Sys2Proof.Machine.execLdba mode operand s
  | .ldbx mode operand => Sys2Proof.Machine.execLdbx mode operand s
  | .stwa mode operand => Sys2Proof.Machine.execStwa mode operand s
  | .stwx mode operand => Sys2Proof.Machine.execStwx mode operand s
  | .stba mode operand => Sys2Proof.Machine.execStba mode operand s
  | .stbx mode operand => Sys2Proof.Machine.execStbx mode operand s

end Sys2Proof.Machine
end

