-- ==== Sys2Proof/Machine/Cycle.lean ====
section
/-!
DEFINITION. One step of the machine (40_fetch_decode_dispatch.md R108): fetch, decode, execute. The
step itself is `Sys2Proof.Machine.step` (Machine/Step.lean), which calls these.
-/

namespace Sys2Proof.Machine

/-- The instruction the fetch has latched in OpCode and Operand (R104, R107). -/
def State.latched (s : State) : Instr := decodeOp s.opCode s.operand

/-- `Fetch(); d <- Decode(OpCode); Execute(d)` (R108). -/
def cycle (s : State) : Result := exec (fetch s).latched (fetch s)

/-- The outcome of a step: after a completed instruction the state is marked by the loop's predicate
(R17, R110); a fault or a refusal is passed on. -/
def settle (r : Result) : Result :=
  match r with
  | .next t => .next t.testLoop
  | .fault f => .fault f
  | .refused f => .refused f

/-- A step of a machine whose run goes on is one instruction (R108); once the run has halted no step
runs (R111 item 6, R316), and the state stays as it is. -/
def stepOnce (s : State) : Result :=
  match s.status with
  | .continuing => settle (cycle s)
  | .halted => .next s

end Sys2Proof.Machine
end

