-- ==== Sys2Proof/Machine/Step.lean ====
section
/-!
DEFINITION. The machine's step (40_fetch_decode_dispatch.md R108), and the state whose next step runs a
given word.
-/

namespace Sys2Proof.Machine

/-- One step (R17, R108). -/
def step (s : State) : Host.Outcome State Fault Refusal := stepOnce s

/-- `s` with the instruction of the word `w`, numbered as the opcode table numbers it, where the next
step fetches it. -/
def State.withFetchWord (s : State) (nbits w : Nat) : State := placeInstruction s (tableBytes nbits w)

end Sys2Proof.Machine
end

