-- ==== Sys2Proof/Machine/Collaborator.lean ====
section
/-!
DEFINITION. The host's side (70_reset_and_hazards.md R330 to R337): the operations a collaborator may
apply between runs, and the run loop (40_fetch_decode_dispatch.md R109 to R112). No step applies one of
them: the host has no move during a run (R335).
-/

namespace Sys2Proof.Machine

/-- Every element zero or false: construction under `P_INIT = all_zero` (R33, R333). -/
def zeroState : State := { State.reset with sp := 0 }

/-- Construction (R333). Under `arbitrary` the state is the free draw `d`. -/
def construct (p : Init) (d : State) : State :=
  match p with
  | .allZero => zeroState
  | .arbitrary => d

/-- `Initialize()` (R330): these five writes and nothing else. -/
def initialise (s : State) : State :=
  { s with pc := 0, a := 0, x := 0, sp := 0xFB8F, halt := false }

/-- `LoadProgram(bytes)` (R331): the image straight into Ram from address 0, past the ports. DESIGN CHOICE:
an image longer than `P_MAX_IMAGE` is refused (assumption log 10, safe). DESIGN CHOICE: under a `P_MAX_IMAGE`
set above 65536, for which the spec gives no effect, the image's bytes past 65535 go to indexes of the list
that no address reaches (assumption log 19, unsafe). -/
def loadProgram (cfg : Config) (bytes : List Byte) (s : State) : Result :=
  if bytes.length ≤ cfg.maxImage then .next { s with ram := s.ram.load 0 bytes }
  else .refused (.imageTooLong bytes.length)

/-- The host fills entry `i` of StdIn (R52, R335). -/
def fillInput (i : Byte) (b : Byte) (s : State) : State :=
  { s with stdIn := s.stdIn.write i.toNat b }

/-- What the host may read after a run (R335, D41). -/
structure HostView where
  a : Word
  x : Word
  pc : Word
  sp : Word
  n : Bool
  z : Bool
  v : Bool
  c : Bool
  ram : Memory
  stdIn : Memory
  stdOut : Memory
deriving DecidableEq, Repr

/-- Inspection (R335): it has no effect and moves no cursor. -/
def inspect (s : State) : HostView :=
  { a := s.a, x := s.x, pc := s.pc, sp := s.sp, n := s.n, z := s.z, v := s.v, c := s.c,
    ram := s.ram, stdIn := s.stdIn, stdOut := s.stdOut }

/-- How a run under fuel ends (R112). -/
inductive RunEnd where
  /-- (a) the loop's predicate was false before a step -/
  | halted (s : State)
  /-- (b) a step raised a fatal error -/
  | faulted (f : Fault)
  /-- a step was refused: R17 says no step is -/
  | refused (r : Refusal)
  /-- (c) no end within the fuel; the model's own outcome (R112, D43) -/
  | outOfFuel (s : State)
deriving DecidableEq, Repr

/-- The loop of R109: the predicate of R110 is tested before every step. -/
def runLoop : Nat → State → RunEnd
  | 0, s => if s.continues then .outOfFuel s else .halted s
  | fuel + 1, s =>
    if s.continues then
      match step s with
      | .next t => runLoop fuel t
      | .fault f => .faulted f
      | .refused r => .refused r
    else .halted s

/-- `Run()` (R109, R332): from whatever state the machine holds; the entry test is the first one. -/
def run (fuel : Nat) (s : State) : RunEnd := runLoop fuel s.testLoop

end Sys2Proof.Machine
end

