-- ==== Sys2Proof/Safety.lean ====
section
/-!
DEFINITION. What claims are stated in terms of: the invariant of the machine's states, and a run
without a fatal error.
-/

namespace Sys2Proof.Machine

/-- The invariant of every state a run from reset reaches: the three byte stores are canonical
(assumption log 6), the halt flag is false (R30), and a run marked as halted is one whose loop predicate
is false (R17, R110). -/
abbrev State.Inv (s : State) : Prop :=
  s.ram.wf ramSize = true ∧ s.stdIn.wf bufferSize = true ∧ s.stdOut.wf bufferSize = true ∧
    s.halt = false ∧ (s.status = .halted → s.continues = false)

/-- No fatal error within `k` steps (R300): the premise claims about a program take (R303). -/
def faultFree : Nat → State → Bool
  | 0, _ => true
  | k + 1, s =>
    match step s with
    | .next t => faultFree k t
    | .fault _ => false
    | .refused _ => false

/-! ### What each instruction may write -/

/-- The parts of the state an instruction's execution can write. Ram, StdOut and OutCur are one part,
`memory`; the input cursor is `input`. OpCode, Operand, HALT and StdIn are no instruction's to write. -/
inductive Part where
  | a
  | x
  | sp
  | pc
  | n
  | z
  | v
  | c
  | memory
  | input
deriving DecidableEq, Repr

/-- The parts each instruction may write when it executes: the writers of A, X and SP (R20, R21, R25),
the flag table of R27, the transfers of control (R23), the stores and CALL, and the data, pointer and
stack reads, which move the input cursor where they meet the input port (R55). -/
def mayWrite : Instr → List Part
  | .halt => []
  | .ret => [.pc, .sp, .input]
  | .ret02 => [.pc, .sp, .input]
  | .movspa => [.a]
  | .movflga => [.a]
  | .movaflg => [.n, .z, .v, .c]
  | .nota => [.a, .n, .z]
  | .notx => [.x, .n, .z]
  | .nega => [.a, .n, .z, .v]
  | .negx => [.x, .n, .z, .v]
  | .asla => [.a, .n, .z, .v, .c]
  | .aslx => [.x, .n, .z, .v, .c]
  | .asra => [.a, .n, .z, .v, .c]
  | .asrx => [.x, .n, .z, .v, .c]
  | .rola => [.a, .n, .z, .v, .c]
  | .rolx => [.x, .n, .z, .v, .c]
  | .rora => [.a, .n, .z, .v, .c]
  | .rorx => [.x, .n, .z, .v, .c]
  | .br _ _ => [.pc]
  | .brle _ _ => [.pc]
  | .brlt _ _ => [.pc]
  | .breq _ _ => [.pc]
  | .brne _ _ => [.pc]
  | .brge _ _ => [.pc]
  | .brgt _ _ => [.pc]
  | .brv _ _ => [.pc]
  | .brc _ _ => [.pc]
  | .call _ _ => [.pc, .sp, .memory]
  | .unknown26 _ _ => []
  | .unknown28 _ _ => []
  | .unknown30 _ _ => []
  | .unknown40 _ _ => []
  | .addsp _ _ => [.sp, .n, .z, .v, .c, .input]
  | .subsp _ _ => [.sp, .n, .z, .v, .c, .input]
  | .adda _ _ => [.a, .n, .z, .v, .c, .input]
  | .addx _ _ => [.x, .n, .z, .v, .c, .input]
  | .suba _ _ => [.a, .n, .z, .v, .c, .input]
  | .subx _ _ => [.x, .n, .z, .v, .c, .input]
  | .anda _ _ => [.a, .n, .z, .input]
  | .andx _ _ => [.x, .n, .z, .input]
  | .ora _ _ => [.a, .n, .z, .input]
  | .orx _ _ => [.x, .n, .z, .input]
  | .cpwa _ _ => [.n, .z, .v, .c, .input]
  | .cpwx _ _ => [.n, .z, .v, .c, .input]
  | .cpba _ _ => [.n, .z, .v, .c, .input]
  | .cpbx _ _ => [.n, .z, .v, .c, .input]
  | .ldwa _ _ => [.a, .n, .z, .input]
  | .ldwx _ _ => [.x, .n, .z, .input]
  | .ldba _ _ => [.a, .n, .z, .input]
  | .ldbx _ _ => [.x, .n, .z, .input]
  | .stwa _ _ => [.memory, .input]
  | .stwx _ _ => [.memory, .input]
  | .stba _ _ => [.memory, .input]
  | .stbx _ _ => [.memory, .input]

/-! ### Addresses -/

/-- Neither port (R54). -/
abbrev clearOfPorts (a : Word) : Prop := a ≠ inPort ∧ a ≠ outPort

/-- The word of Ram at an address, high byte first (R57, R59). -/
def ramWord (s : State) (a : Word) : Word :=
  wordOfBytes (s.ram.read a.toNat) (s.ram.read (a + 1).toNat)

/-- The address of the pointer cell of modes 2, 4 and 7 (R130, R134). -/
def pointerCell (m : Mode) (operand : Word) (s : State) : Option Word :=
  match m with
  | .immediate => none
  | .direct => none
  | .indirect => some operand
  | .stackRelative => none
  | .stackDeferred => some (s.sp + operand)
  | .indexed => none
  | .stackIndexed => none
  | .stackDeferredIndexed => some (s.sp + operand + s.x)

/-- The same instruction executed `k` times in a row. -/
def execTimes : Nat → Instr → State → Result
  | 0, _, s => .next s
  | k + 1, i, s =>
    match exec i s with
    | .next t => execTimes k i t
    | .fault f => .fault f
    | .refused r => .refused r

end Sys2Proof.Machine
end

