-- ==== Sys2Proof/Certificates/Slice0/Obligations.lean ====
section
/-!
DEFINITION. The statements about the machine, each from the spec's numbered rules. A clause that rests on
a choice of the model's own says so and names the log entry.
-/

open Sys2Proof Sys2Proof.Machine

/-! ### Encoding -/

/-- Decoding what the encoder writes gives the instruction back, with the bytes after it (30_encoding.md,
40_fetch_decode_dispatch.md). -/
def Obligations.DecodeOfEncode : Prop :=
  ∀ (i : Instr) (rest : List Byte), i.wellFormed = true →
    decode (encode i ++ rest) = .ok (i, rest)

/-- What the decoder accepts is well-formed, and encoding it gives the bytes it was read from. -/
def Obligations.EncodeOfDecode : Prop :=
  ∀ (bs rest : List Byte) (i : Instr), decode bs = .ok (i, rest) →
    i.wellFormed = true ∧ encode i ++ rest = bs

/-- R91: every opcode selects exactly one row of the table, the decoder's instruction is that row's, and
with every operand it is an instruction. -/
def Obligations.EveryOpcodeHasOneRow : Prop :=
  ∀ (op : Byte) (w : Word),
    (∃ r, opcodeTable.filter (fun r => r.holds op) = [r] ∧
      r.mnemonic = mnemonicOf (decodeOp op w)) ∧
    (decodeOp op w).wellFormed = true ∧ opcodeOf (decodeOp op w) = op

/-- R104: the decoder's ranges, with the fields each takes from the opcode. -/
def Obligations.DecoderFollowsOpcodeRanges : Prop :=
  (∀ w : Word,
    decodeOp 0x00 w = .halt ∧ decodeOp 0x01 w = .ret ∧ decodeOp 0x02 w = .ret02 ∧
    decodeOp 0x03 w = .movspa ∧ decodeOp 0x04 w = .movflga ∧ decodeOp 0x05 w = .movaflg ∧
    decodeOp 0x06 w = .nota ∧ decodeOp 0x07 w = .notx ∧ decodeOp 0x08 w = .nega ∧
    decodeOp 0x09 w = .negx ∧ decodeOp 0x0A w = .asla ∧ decodeOp 0x0B w = .aslx ∧
    decodeOp 0x0C w = .asra ∧ decodeOp 0x0D w = .asrx ∧ decodeOp 0x0E w = .rola ∧
    decodeOp 0x0F w = .rolx ∧ decodeOp 0x10 w = .rora ∧ decodeOp 0x11 w = .rorx) ∧
  (∀ (ix : Index) (w : Word),
    decodeOp (0x12 ||| ix.code) w = .br ix w ∧ decodeOp (0x14 ||| ix.code) w = .brle ix w ∧
    decodeOp (0x16 ||| ix.code) w = .brlt ix w ∧ decodeOp (0x18 ||| ix.code) w = .breq ix w ∧
    decodeOp (0x1A ||| ix.code) w = .brne ix w ∧ decodeOp (0x1C ||| ix.code) w = .brge ix w ∧
    decodeOp (0x1E ||| ix.code) w = .brgt ix w ∧ decodeOp (0x20 ||| ix.code) w = .brv ix w ∧
    decodeOp (0x22 ||| ix.code) w = .brc ix w ∧ decodeOp (0x24 ||| ix.code) w = .call ix w) ∧
  (∀ (op : Byte) (w : Word),
    (0x26 ≤ op.toNat → op.toNat ≤ 0x27 → decodeOp op w = .unknown26 op w) ∧
    (0x28 ≤ op.toNat → op.toNat ≤ 0x2F → decodeOp op w = .unknown28 op w) ∧
    (0x30 ≤ op.toNat → op.toNat ≤ 0x3F → decodeOp op w = .unknown30 op w) ∧
    (0x40 ≤ op.toNat → op.toNat ≤ 0x4F → decodeOp op w = .unknown40 op w)) ∧
  (∀ (m : Mode) (w : Word),
    decodeOp (0x50 ||| m.code) w = .addsp m w ∧ decodeOp (0x58 ||| m.code) w = .subsp m w ∧
    decodeOp (0x60 ||| m.code) w = .adda m w ∧ decodeOp (0x68 ||| m.code) w = .addx m w ∧
    decodeOp (0x70 ||| m.code) w = .suba m w ∧ decodeOp (0x78 ||| m.code) w = .subx m w ∧
    decodeOp (0x80 ||| m.code) w = .anda m w ∧ decodeOp (0x88 ||| m.code) w = .andx m w ∧
    decodeOp (0x90 ||| m.code) w = .ora m w ∧ decodeOp (0x98 ||| m.code) w = .orx m w ∧
    decodeOp (0xA0 ||| m.code) w = .cpwa m w ∧ decodeOp (0xA8 ||| m.code) w = .cpwx m w ∧
    decodeOp (0xB0 ||| m.code) w = .cpba m w ∧ decodeOp (0xB8 ||| m.code) w = .cpbx m w ∧
    decodeOp (0xC0 ||| m.code) w = .ldwa m w ∧ decodeOp (0xC8 ||| m.code) w = .ldwx m w ∧
    decodeOp (0xD0 ||| m.code) w = .ldba m w ∧ decodeOp (0xD8 ||| m.code) w = .ldbx m w ∧
    decodeOp (0xE0 ||| m.code) w = .stwa m w ∧ decodeOp (0xE8 ||| m.code) w = .stwx m w ∧
    decodeOp (0xF0 ||| m.code) w = .stba m w ∧ decodeOp (0xF8 ||| m.code) w = .stbx m w)

/-- R80: the length of what the decoder reads is decided by the opcode, one byte below 0x12 and three
from there on. That the decoder refuses a list too short for its opcode, and by the name `operandMissing`,
is the model's choice (assumption log 15). -/
def Obligations.LengthIsDecidedByOpcode : Prop :=
  ∀ (op : Byte) (bs : List Byte),
    (op.toNat < 0x12 → ∃ i, decode (op :: bs) = .ok (i, bs)) ∧
    (0x12 ≤ op.toNat →
      (∀ hi lo rest, bs = hi :: lo :: rest →
        ∃ i, decode (op :: bs) = .ok (i, rest) ∧ operandOf i = some (wordOfBytes hi lo)) ∧
      (bs.length < 2 → decode (op :: bs) = .error (.operandMissing op)))

/-- A few words written out from the encoding tables decode to what they stand for. -/
def Obligations.WrittenOutWordsDecode : Prop :=
  decode [0x00] = .ok (.halt, []) ∧
  decode [0x0D] = .ok (.asrx, []) ∧
  decode [0x24, 0x00, 0x04] = .ok (.call .plain 0x0004, []) ∧
  decode [0x1B, 0x00, 0x40] = .ok (.brne .indexed 0x0040, []) ∧
  decode [0x6B, 0x12, 0x34] = .ok (.addx .stackRelative 0x1234, []) ∧
  decode [0xBD, 0x00, 0x01] = .ok (.cpbx .indexed 0x0001, []) ∧
  decode [0xD1, 0x00, 0x04] = .ok (.ldba .direct 0x0004, []) ∧
  decode [0xEF, 0xFC, 0x16] = .ok (.stwx .stackDeferredIndexed 0xFC16, [])

/-! ### Configuration, reset and the collaborator -/

/-- R10: every parameter of the configuration in force is at the spec's default. That the machine runs
under the defaults is the model's choice (assumption log 1 to 5 and 10). -/
def Obligations.ConfigurationIsTheDefault : Prop :=
  config.byteImm = .fullOperand ∧ config.unaryV = .signChange ∧ config.movFlgA = .clear ∧
  config.movAFlg = .cumulativeMask ∧ config.init = .allZero ∧ config.maxImage = 65536 ∧
  (∀ d : State, construct config.init d = { State.reset with sp := 0x0000 })

/-- The machine after reset. PC, A, X, SP and HALT are what `Initialize` writes (R330); the flags,
OpCode, Operand, the stores and the cursors are the model's choice of the default construction
(assumption log 5 and 6), and so is the run going on (log 7). -/
def Obligations.ResetState : Prop :=
  State.reset.pc = 0x0000 ∧ State.reset.a = 0x0000 ∧ State.reset.x = 0x0000 ∧
  State.reset.sp = 0xFB8F ∧ State.reset.halt = false ∧
  (State.reset.n = false ∧ State.reset.z = false ∧ State.reset.v = false ∧ State.reset.c = false ∧
    State.reset.opCode = 0x00 ∧ State.reset.operand = 0x0000 ∧
    State.reset.inCur = 0 ∧ State.reset.outCur = 0 ∧ State.reset.status = .continuing ∧
    ∀ i : Nat, State.reset.ram.read i = 0 ∧ State.reset.stdIn.read i = 0 ∧
      State.reset.stdOut.read i = 0) ∧
  (∀ d : State, initialise (construct .allZero d) = State.reset)

/-- R330: `Initialize` writes PC, A, X, SP and HALT, and nothing else. That it leaves the mark of the run
outcome, too, is the model's inference (assumption log 17). -/
def Obligations.InitializeWritesFiveElements : Prop :=
  ∀ s : State,
    ((initialise s).pc = 0x0000 ∧ (initialise s).a = 0x0000 ∧ (initialise s).x = 0x0000 ∧
      (initialise s).sp = 0xFB8F ∧ (initialise s).halt = false) ∧
    ((initialise s).n = s.n ∧ (initialise s).z = s.z ∧ (initialise s).v = s.v ∧
      (initialise s).c = s.c ∧ (initialise s).opCode = s.opCode ∧
      (initialise s).operand = s.operand ∧ (initialise s).ram = s.ram ∧
      (initialise s).stdIn = s.stdIn ∧ (initialise s).inCur = s.inCur ∧
      (initialise s).stdOut = s.stdOut ∧ (initialise s).outCur = s.outCur ∧
      (initialise s).status = s.status)

/-- R331: `LoadProgram` writes the image's bytes straight into Ram from address 0, the two port
addresses included, and nothing else. That an image longer than `P_MAX_IMAGE` bytes is refused by name, and
that `P_MAX_IMAGE` is 65536, is the model's choice (assumption log 10), and so is what a setting above 65536
does (log 19). -/
def Obligations.LoadProgramCopiesImage : Prop :=
  ∀ (cfg : Config) (bs : List Byte) (s : State),
    (bs.length ≤ cfg.maxImage → ∃ t, loadProgram cfg bs s = .next t ∧
      (∀ i, i < bs.length → bs[i]? = some (t.ram.read i)) ∧
      (∀ i, bs.length ≤ i → t.ram.read i = s.ram.read i) ∧
      { t with ram := s.ram } = s) ∧
    (cfg.maxImage < bs.length → loadProgram cfg bs s = .refused (.imageTooLong bs.length)) ∧
    config.maxImage = 65536

/-! ### Fetch, step and run -/

/-- R101 and R102: fetch reads the opcode byte at PC and moves PC past it; from 0x12 on it reads the
operand word there and moves PC past that too, and below 0x12 it leaves Operand as it is. -/
def Obligations.FetchLatchesInstruction : Prop :=
  ∀ s : State,
    let p := readByte s s.pc
    let s1 : State := { p.2 with opCode := p.1, pc := s.pc + 1 }
    (p.1.toNat < 0x12 → fetch s = s1) ∧
    (0x12 ≤ p.1.toNat →
      fetch s =
        { (readWord s1 s1.pc).2 with operand := (readWord s1 s1.pc).1, pc := s1.pc + 2 })

/-- Fetch from Ram, the operand's bytes included: what it latches, where PC stands after it (R23, R24)
and that nothing else changes. -/
def Obligations.FetchFromRamBytes : Prop :=
  ∀ s : State, s.pc ≠ inPort → s.pc + 1 ≠ inPort → s.pc + 2 ≠ inPort →
    let op := s.ram.read s.pc.toNat
    (op.toNat < 0x12 → fetch s = { s with opCode := op, pc := s.pc + 1 }) ∧
    (0x12 ≤ op.toNat →
      fetch s =
        { s with
          opCode := op
          operand := wordOfBytes (s.ram.read (s.pc + 1).toNat) (s.ram.read (s.pc + 2).toNat)
          pc := s.pc + 3 })

/-- R108: while the run goes on, a step is the fetch, the decoding of what it latched, and that
instruction's execution on the fetched state; around it the step only marks the next state by the loop's
predicate (R17, R110), and passes a fault or a refusal on. -/
def Obligations.StepRunsLatchedInstruction : Prop :=
  ∀ s : State, s.status = .continuing →
    step s =
      match exec (decodeOp (fetch s).opCode (fetch s).operand) (fetch s) with
      | .next t => .next { t with status := if t.continues then .continuing else .halted }
      | .fault f => .fault f
      | .refused r => .refused r

/-- When the bytes of Ram at PC decode to an instruction, a step is that instruction's execution on the
fetched state, its next state marked by the loop's predicate. -/
def Obligations.StepRunsInstructionInRam : Prop :=
  ∀ (s : State) (i : Instr) (rest : List Byte), s.status = .continuing →
    s.pc ≠ inPort → s.pc + 1 ≠ inPort → s.pc + 2 ≠ inPort →
    decode [s.ram.read s.pc.toNat, s.ram.read (s.pc + 1).toNat, s.ram.read (s.pc + 2).toNat] =
      .ok (i, rest) →
    (fetch s).opCode = opcodeOf i ∧ (∀ w, operandOf i = some w → (fetch s).operand = w) ∧
    (fetch s).pc = s.pc + BitVec.ofNat 16 (encode i).length ∧
    step s =
      match exec i (fetch s) with
      | .next t => .next { t with status := if t.continues then .continuing else .halted }
      | .fault f => .fault f
      | .refused r => .refused r

/-- The model's choice (assumption log 7): a machine whose run has halted stays as it is. -/
def Obligations.HaltedMachineStays : Prop :=
  ∀ s : State, s.status = .halted → step s = .next s

/-- R110: the loop's predicate, literally; with the halt flag false it is `OpCode != 0 or PC == 0`. -/
def Obligations.LoopPredicateIsLiteral : Prop :=
  ∀ s : State,
    (s.continues = true ↔ (s.halt = false ∧ s.opCode ≠ 0x00) ∨ s.pc = 0x0000) ∧
    (s.halt = false → (s.continues = true ↔ s.opCode ≠ 0x00 ∨ s.pc = 0x0000))

/-- R111: the six consequences of the loop's predicate. -/
def Obligations.LoopConsequences : Prop :=
  (∀ s : State, (initialise s).continues = true) ∧
  (∀ s t : State, s.status = .continuing → s.halt = false → step s = .next t → t.opCode ≠ 0x00 →
    t.status = .continuing) ∧
  (∀ s t : State, s.status = .continuing → s.halt = false → step s = .next t → t.opCode = 0x00 →
    t.pc = s.pc + 1 ∧
    (s.pc ≠ 0xFFFF → t.status = .halted) ∧
    (s.pc = 0xFFFF → t.pc = 0x0000 ∧ t.status = .continuing)) ∧
  (∀ (s : State) (fuel : Nat), s.halt = false → s.pc = 0x0000 → s.ram.read 0 = 0x00 →
    run (fuel + 1) s = .halted { s with opCode := 0x00, pc := 0x0001, status := .halted }) ∧
  (∀ (s : State) (fuel : Nat), s.opCode = 0x00 → s.pc ≠ 0x0000 →
    run fuel s = .halted { s with status := .halted })

/-- R112: a run that has ended within some fuel ends the same with more; a halted run's last state
fails the loop's predicate; no run ends refused. -/
def Obligations.RunEndsAreFinal : Prop :=
  (∀ (n k : Nat) (s : State), (∀ t, run n s ≠ .outOfFuel t) → run (n + k) s = run n s) ∧
  (∀ (n : Nat) (s t : State), run n s = .halted t → t.continues = false) ∧
  (∀ (n : Nat) (s : State) (r : Refusal), run n s ≠ .refused r)

/-- R17, R300 to R303: a step faults exactly when the fetched opcode is one of the unknown ones or a store
in immediate mode; the fault records the kind, the opcode and the state its fetch left. The cause codes
are 1 and 2. No step is refused. That a step of a machine whose run has halted does not fault is the model's
choice (assumption log 7). -/
def Obligations.FatalErrorsAreExactlyTwo : Prop :=
  (∀ (s : State) (f : Fault), step s = .fault f ↔
    s.status = .continuing ∧
    ((0x26 ≤ (fetch s).opCode.toNat ∧ (fetch s).opCode.toNat ≤ 0x4F ∧
        f = .unknownOpcode (fetch s).opCode (fetch s)) ∨
      (((fetch s).opCode = 0xE0 ∨ (fetch s).opCode = 0xE8 ∨ (fetch s).opCode = 0xF0 ∨
          (fetch s).opCode = 0xF8) ∧
        f = .invalidStoreTarget (fetch s).opCode (fetch s)))) ∧
  FatalKind.unknownOpcode.code = 1 ∧ FatalKind.invalidStoreTarget.code = 2 ∧
  (∀ (s : State) (r : Refusal), step s ≠ .refused r)

/-- The stores stay canonical (assumption log 6), the halt flag stays false (R30), and a machine marked
as halted is one whose loop predicate is false (R17, R110). -/
def Obligations.StepKeepsInvariant : Prop :=
  ∀ s t : State, s.Inv → step s = .next t → t.Inv

/-- The state after reset meets the invariant. -/
def Obligations.ResetMeetsInvariant : Prop := State.reset.Inv

/-- R28, R29, R30: no instruction writes OpCode, Operand or HALT; a step leaves in OpCode the byte it
fetched, in Operand the word it fetched or, below 0x12, what was there, and HALT as it was. StdIn is the
host's to fill (R52). -/
def Obligations.OnlyFetchWritesOpcodeAndOperand : Prop :=
  (∀ (i : Instr) (s t : State), exec i s = .next t →
    t.opCode = s.opCode ∧ t.operand = s.operand ∧ t.halt = s.halt ∧ t.stdIn = s.stdIn ∧
    t.status = s.status) ∧
  (∀ s t : State, s.status = .continuing → step s = .next t →
    t.opCode = (readByte s s.pc).1 ∧ t.operand = (fetch s).operand ∧
    (t.opCode.toNat < 0x12 → t.operand = s.operand) ∧ t.halt = s.halt ∧ t.stdIn = s.stdIn)

/-- R29, R102: an instruction below 0x12 does not depend on what Operand holds. -/
def Obligations.StaleOperandIsNotObserved : Prop :=
  ∀ (s t : State) (w : Word), s.status = .continuing → (readByte s s.pc).1.toNat < 0x12 →
    step s = .next t → step { s with operand := w } = .next { t with operand := w }

/-- R23: an instruction that does not transfer control leaves PC past it. -/
def Obligations.PcAdvancesPastInstruction : Prop :=
  ∀ s t : State, s.status = .continuing → step s = .next t →
    Part.pc ∉ mayWrite (decodeOp (fetch s).opCode (fetch s).operand) →
    t.pc = s.pc + (if (readByte s s.pc).1.toNat < 0x12 then 1 else 3)

/-- R67: a fetch sees the bytes stored where it reads, opcode and operand. -/
def Obligations.StoredBytesAreFetched : Prop :=
  (∀ (s : State) (b : Byte), clearOfPorts s.pc → (fetch (writeByte s s.pc b)).opCode = b) ∧
  (∀ (s : State) (u : Word), s.pc ≠ inPort → clearOfPorts (s.pc + 1) → clearOfPorts (s.pc + 2) →
    0x12 ≤ (s.ram.read s.pc.toNat).toNat →
    (fetch (writeWord s (s.pc + 1) u)).operand = u)

/-! ### Memory -/

/-- R55 and R56: reads of the input port and writes of the output port go to the ring buffers and
advance their cursors, which wrap modulo 256; every other access is of Ram and changes nothing else. -/
def Obligations.ByteAccessesAndPorts : Prop :=
  inPort = 0xFC15 ∧ outPort = 0xFC16 ∧
  (∀ s : State,
    readByte s 0xFC15 = (s.stdIn.read s.inCur.toNat, { s with inCur := s.inCur + 1 }) ∧
    (readByte (readByte s 0xFC15).2 0xFC15).1 = s.stdIn.read ((s.inCur.toNat + 1) % 256)) ∧
  (∀ (s : State) (a : Word), a ≠ 0xFC15 → readByte s a = (s.ram.read a.toNat, s)) ∧
  (∀ (s : State) (b : Byte),
    (writeByte s 0xFC16 b).stdOut.read s.outCur.toNat = b ∧
    (writeByte s 0xFC16 b).outCur.toNat = (s.outCur.toNat + 1) % 256 ∧
    (∀ i, i ≠ s.outCur.toNat → (writeByte s 0xFC16 b).stdOut.read i = s.stdOut.read i) ∧
    { writeByte s 0xFC16 b with stdOut := s.stdOut, outCur := s.outCur } = s) ∧
  (∀ (s : State) (a : Word) (b : Byte), a ≠ 0xFC16 →
    (writeByte s a b).ram.read a.toNat = b ∧
    (∀ i, i ≠ a.toNat → (writeByte s a b).ram.read i = s.ram.read i) ∧
    { writeByte s a b with ram := s.ram } = s)

/-- R69: a write to 0xFC15 goes to Ram and to no buffer, where the host sees it and no read of the
program does; a read of 0xFC16 is of Ram and moves no cursor. -/
def Obligations.OtherPortDirectionIsRam : Prop :=
  ∀ (s : State) (b : Byte),
    (inspect (writeByte s 0xFC15 b)).ram.read 0xFC15 = b ∧
    { writeByte s 0xFC15 b with ram := s.ram } = s ∧
    (readByte (writeByte s 0xFC15 b) 0xFC15).1 = s.stdIn.read s.inCur.toNat ∧
    readByte s 0xFC16 = (s.ram.read 0xFC16, s)

/-- R57 and R58: a word access is two byte accesses, the high byte first, at the lower address; the
address after 0xFFFF is 0x0000. -/
def Obligations.WordAccessIsTwoByteAccesses : Prop :=
  (∀ (s : State) (a : Word),
    readWord s a =
      (wordOfBytes (readByte s a).1 (readByte (readByte s a).2 (a + 1)).1,
        (readByte (readByte s a).2 (a + 1)).2)) ∧
  (∀ (s : State) (a u : Word),
    writeWord s a u = writeByte (writeByte s a (highByte u)) (a + 1) (lowByte u)) ∧
  (∀ hi lo : Byte, (wordOfBytes hi lo).toNat = 256 * hi.toNat + lo.toNat) ∧
  (∀ u : Word, (highByte u).toNat = u.toNat / 256 ∧ (lowByte u).toNat = u.toNat % 256) ∧
  (0xFFFF : Word) + 1 = 0x0000

/-- R59: a word written at an address clear of the ports reads back whole, its high byte at that address
and its low byte at the next. -/
def Obligations.WordRoundTripIsBigEndian : Prop :=
  ∀ (s : State) (a u : Word), clearOfPorts a → clearOfPorts (a + 1) →
    (readWord (writeWord s a u) a).1 = u ∧
    (readByte (writeWord s a u) a).1.toNat = u.toNat / 256 ∧
    (readByte (writeWord s a u) (a + 1)).1.toNat = u.toNat % 256

/-- R64: a read of a byte of Ram gives the latest write to it; a later write to any other address, the two
ports included, does not change it. A write to any address leaves what every other address reads. -/
def Obligations.RamReadsLatestWrite : Prop :=
  ∀ (s : State) (a i : Word) (b b' : Byte), i ≠ a →
    (clearOfPorts a →
      (readByte (writeByte s a b) a).1 = b ∧
      (readByte (writeByte (writeByte s a b) i b') a).1 = b) ∧
    (readByte (writeByte s a b) i).1 = (readByte s i).1

/-- R53, R56: bytes written to the output port stand in StdOut in the order written, from the cursor on,
and the cursor moves by their number modulo 256; every other entry of StdOut reads as before, and nothing
else changes. -/
def Obligations.OutputBytesStandInOrder : Prop :=
  ∀ (bs : List Byte) (s : State), bs.length ≤ 256 →
    let t := bs.foldl (fun s b => writeByte s outPort b) s
    t.outCur.toNat = (s.outCur.toNat + bs.length) % 256 ∧
    (∀ i, i < bs.length → bs[i]? = some (t.stdOut.read ((s.outCur.toNat + i) % 256))) ∧
    (∀ k, (∀ i, i < bs.length → k ≠ (s.outCur.toNat + i) % 256) →
      t.stdOut.read k = s.stdOut.read k) ∧
    { t with stdOut := s.stdOut, outCur := s.outCur } = s

/-! ### Flags and arithmetic -/

/-- R150 to R153, and what they say of the signed and unsigned readings: N is the sign, C an unsigned sum
out of range, V a signed sum out of range. -/
def Obligations.FlagFunctions : Prop :=
  ∀ a b : Word,
    (isNegative a = true ↔ a.toNat / 2 ^ 15 % 2 = 1) ∧
    (isZero a = true ↔ a = 0x0000) ∧
    (isCarry a b = true ↔ a.toNat + b.toNat > 0xFFFF) ∧
    (isOverflow a b = true ↔
      a.getLsbD 15 = b.getLsbD 15 ∧ (a + b).getLsbD 15 ≠ a.getLsbD 15) ∧
    (isNegative a = true ↔ a.toInt < 0) ∧
    (isOverflow a b = true ↔ a.toInt + b.toInt < -32768 ∨ 32767 < a.toInt + b.toInt)

/-- R154: V of the unary instructions, under each setting of `P_UNARY_V`. -/
def Obligations.UnaryOverflowSettings : Prop :=
  (∀ before after : Word,
    signChange before after = (before.getLsbD 15 != after.getLsbD 15)) ∧
  (∀ (op : UnaryOp) (old : Bool) (before after : Word),
    unaryOverflow .signChange op old before after = signChange before after) ∧
  (∀ (old : Bool) (before after : Word),
    unaryOverflow .pep9Overflow .neg old before after = (before == 0x8000) ∧
    unaryOverflow .pep9Overflow .asl old before after =
      (before.getLsbD 15 != before.getLsbD 14) ∧
    unaryOverflow .pep9Overflow .asr old before after = old ∧
    unaryOverflow .pep9Overflow .rol old before after = old ∧
    unaryOverflow .pep9Overflow .ror old before after = old) ∧
  (∀ before : Word, signChange before (asl16 before).1 = (before.getLsbD 15 != before.getLsbD 14))

/-- R156: subtraction is addition of the negation, with its corner cases. -/
def Obligations.SubtractionCorners : Prop :=
  ∀ a b : Word,
    sub16 a b = add16 a (neg16 b) ∧ subV a b = isOverflow a (neg16 b) ∧
    subC a b = isCarry a (neg16 b) ∧
    sub16 a b = a - b ∧
    subC a 0 = false ∧ (b ≠ 0 → subC a b = decide (b.toNat ≤ a.toNat)) ∧
    subV a 0x8000 = a.getLsbD 15 ∧ subV 0xFFFF 0x8000 = true

/-- R157 to R164: the results of the arithmetic-logic unit as numbers, and the bit each shift evicts. -/
def Obligations.ArithmeticLogicUnit : Prop :=
  ∀ (a b : Word) (c : Bool),
    (add16 a b).toNat = (a.toNat + b.toNat) % 0x10000 ∧
    (∀ i, (and16 a b).getLsbD i = (a.getLsbD i && b.getLsbD i)) ∧
    (∀ i, (or16 a b).getLsbD i = (a.getLsbD i || b.getLsbD i)) ∧
    (not16 a).toNat = 0xFFFF - a.toNat ∧
    (neg16 a).toNat = (0x10000 - a.toNat) % 0x10000 ∧
    ((asl16 a).1.toNat = 2 * a.toNat % 0x10000 ∧ (asl16 a).2 = a.getLsbD 15) ∧
    ((asr16 a).1.toInt = a.toInt / 2 ∧ (asr16 a).2 = a.getLsbD 0) ∧
    ((rol16 a c).1.toNat = (2 * a.toNat + c.toNat) % 0x10000 ∧ (rol16 a c).2 = a.getLsbD 15) ∧
    ((ror16 a c).1.toNat = a.toNat / 2 + 0x8000 * c.toNat ∧ (ror16 a c).2 = a.getLsbD 0)

/-- R166: a rotate threads one circle of 17 bits: seventeen in a row of one register restore the
register and C. -/
def Obligations.RotatesCycleInSeventeen : Prop :=
  ∀ s : State,
    (∃ t, execTimes 17 .rola s = .next t ∧ t.a = s.a ∧ t.c = s.c) ∧
    (∃ t, execTimes 17 .rolx s = .next t ∧ t.x = s.x ∧ t.c = s.c) ∧
    (∃ t, execTimes 17 .rora s = .next t ∧ t.a = s.a ∧ t.c = s.c) ∧
    (∃ t, execTimes 17 .rorx s = .next t ∧ t.x = s.x ∧ t.c = s.c)

/-! ### Halt, call and return -/

/-- R170: HALT has no effect of its own. -/
def Obligations.HaltIsNoOp : Prop :=
  (∀ w : Word, decodeOp 0x00 w = .halt) ∧ ∀ s : State, exec .halt s = .next s

/-- R171 and R172: RET and opcode 0x02 pop the word at SP into PC and move SP up by 2; nothing else
changes but the input cursor, and that only where the word touches the input port. -/
def Obligations.ReturnsPopPc : Prop :=
  (∀ w : Word, decodeOp 0x01 w = .ret ∧ decodeOp 0x02 w = .ret02) ∧
  (∀ s : State,
    exec .ret s =
      .next { s with
        pc := (readWord s s.sp).1, sp := s.sp + 2, inCur := (readWord s s.sp).2.inCur } ∧
    exec .ret02 s =
      .next { s with
        pc := (readWord s s.sp).1, sp := s.sp + 2, inCur := (readWord s s.sp).2.inCur }) ∧
  (∀ s : State, s.sp ≠ inPort → s.sp + 1 ≠ inPort →
    exec .ret s = .next { s with pc := ramWord s s.sp, sp := s.sp + 2 } ∧
    exec .ret02 s = .next { s with pc := ramWord s s.sp, sp := s.sp + 2 })

/-- R173: CALL moves SP down by 2, pushes the PC past it there and jumps to Operand or Operand + X. -/
def Obligations.CallPushesPcAndJumps : Prop :=
  (∀ (ix : Index) (w : Word), decodeOp (0x24 ||| ix.code) w = .call ix w) ∧
  ∀ (w : Word) (s : State),
    exec (.call .plain w) s =
      .next { writeWord { s with sp := s.sp - 2 } (s.sp - 2) s.pc with pc := w } ∧
    exec (.call .indexed w) s =
      .next { writeWord { s with sp := s.sp - 2 } (s.sp - 2) s.pc with pc := w + s.x }

/-- R174: CALL moves SP down by 2 and leaves the pre-call PC at SP; a return with SP and those two bytes
as CALL left them brings PC and SP back. -/
def Obligations.CallThenReturn : Prop :=
  ∀ (ix : Index) (w : Word) (s : State),
    clearOfPorts (s.sp - 2) → clearOfPorts (s.sp - 2 + 1) →
    ∃ t, exec (.call ix w) s = .next t ∧ t.sp = s.sp - 2 ∧ ramWord t t.sp = s.pc ∧
      ∀ t' : State, t'.sp = t.sp → ramWord t' t'.sp = ramWord t t.sp →
        ∃ u u', exec .ret t' = .next u ∧ u.pc = s.pc ∧ u.sp = s.sp ∧
          exec .ret02 t' = .next u' ∧ u'.pc = s.pc ∧ u'.sp = s.sp

/-! ### Unary instructions -/

/-- R190: MOVSPA copies SP to A; no flag is written. -/
def Obligations.MovspaCopiesSp : Prop :=
  (∀ w : Word, decodeOp 0x03 w = .movspa) ∧
  ∀ s : State, exec .movspa s = .next { s with a := s.sp }

/-- R191: MOVFLGA packs C, V, Z and N into bits 0 to 3 of A; bits 15 to 4 are as `P_MOVFLGA` says. -/
def Obligations.MovflgaPacksFlags : Prop :=
  (∀ w : Word, decodeOp 0x04 w = .movflga) ∧
  (∀ s : State,
    exec .movflga s =
      .next { s with a := movFlgAResult config.movFlgA s.a (packFlags s.n s.z s.v s.c) }) ∧
  (∀ n z v c : Bool,
    (packFlags n z v c).toNat = 8 * n.toNat + 4 * z.toNat + 2 * v.toNat + c.toNat) ∧
  (∀ (a : Word) (n z v c : Bool),
    movFlgAResult .clear a (packFlags n z v c) = packFlags n z v c ∧
    (movFlgAResult .keep a (packFlags n z v c)).toNat =
      16 * (a.toNat / 16) + (packFlags n z v c).toNat)

/-- R192: MOVAFLG sets each flag from its mask of A; under `cumulative_mask` the mask holds the flag's
own bit and every bit below it, under `extract` its own bit alone. A does not change. Under
`cumulative_mask` MOVAFLG undoes MOVFLGA exactly where the packed flags are 0x0, 0x8, 0xC, 0xE or 0xF. -/
def Obligations.MovaflgTestsMasks : Prop :=
  (∀ w : Word, decodeOp 0x05 w = .movaflg) ∧
  (∀ s : State,
    exec .movaflg s =
      .next { s with
        c := testMask s.a (flagMask config.movAFlg 0)
        v := testMask s.a (flagMask config.movAFlg 1)
        z := testMask s.a (flagMask config.movAFlg 2)
        n := testMask s.a (flagMask config.movAFlg 3) }) ∧
  (∀ a : Word,
    testMask a (flagMask .cumulativeMask 0) = a.getLsbD 0 ∧
    testMask a (flagMask .cumulativeMask 1) = (a.getLsbD 1 || a.getLsbD 0) ∧
    testMask a (flagMask .cumulativeMask 2) = (a.getLsbD 2 || a.getLsbD 1 || a.getLsbD 0) ∧
    testMask a (flagMask .cumulativeMask 3) =
      (a.getLsbD 3 || a.getLsbD 2 || a.getLsbD 1 || a.getLsbD 0)) ∧
  (∀ (a : Word) (k : Nat), k < 4 → testMask a (flagMask .extract k) = a.getLsbD k) ∧
  (∀ n z v c : Bool,
    (testMask (packFlags n z v c) (flagMask .cumulativeMask 0) = c ∧
      testMask (packFlags n z v c) (flagMask .cumulativeMask 1) = v ∧
      testMask (packFlags n z v c) (flagMask .cumulativeMask 2) = z ∧
      testMask (packFlags n z v c) (flagMask .cumulativeMask 3) = n) ↔
    packFlags n z v c ∈ [0x0, 0x8, 0xC, 0xE, 0xF])

/-- R193: NOT inverts the register; N and Z from the result; V and C unchanged. -/
def Obligations.NotInvertsRegister : Prop :=
  (∀ w : Word, decodeOp 0x06 w = .nota ∧ decodeOp 0x07 w = .notx) ∧
  ∀ s : State,
    exec .nota s =
      .next { s with a := not16 s.a, n := isNegative (not16 s.a), z := isZero (not16 s.a) } ∧
    exec .notx s =
      .next { s with x := not16 s.x, n := isNegative (not16 s.x), z := isZero (not16 s.x) }

/-- R194: NEG negates the register; N and Z from the result, V as `P_UNARY_V` says; C unchanged. -/
def Obligations.NegNegatesRegister : Prop :=
  (∀ w : Word, decodeOp 0x08 w = .nega ∧ decodeOp 0x09 w = .negx) ∧
  (∀ s : State,
    exec .nega s =
      .next { s with
        a := neg16 s.a, n := isNegative (neg16 s.a), z := isZero (neg16 s.a)
        v := unaryOverflow config.unaryV .neg s.v s.a (neg16 s.a) } ∧
    exec .negx s =
      .next { s with
        x := neg16 s.x, n := isNegative (neg16 s.x), z := isZero (neg16 s.x)
        v := unaryOverflow config.unaryV .neg s.v s.x (neg16 s.x) }) ∧
  (∀ v : Word, signChange v (neg16 v) = (decide (v ≠ 0x0000) && decide (v ≠ 0x8000)))

/-- R195 and R196: ASL and ASR shift the register by one bit; N and Z from the result, V as `P_UNARY_V`
says, C the evicted bit. Under `sign_change` ASR's V is always false. -/
def Obligations.ArithmeticShifts : Prop :=
  (∀ w : Word, decodeOp 0x0A w = .asla ∧ decodeOp 0x0B w = .aslx ∧
    decodeOp 0x0C w = .asra ∧ decodeOp 0x0D w = .asrx) ∧
  (∀ s : State,
    exec .asla s =
      .next { s with
        a := (asl16 s.a).1, n := isNegative (asl16 s.a).1, z := isZero (asl16 s.a).1
        v := unaryOverflow config.unaryV .asl s.v s.a (asl16 s.a).1, c := s.a.getLsbD 15 } ∧
    exec .aslx s =
      .next { s with
        x := (asl16 s.x).1, n := isNegative (asl16 s.x).1, z := isZero (asl16 s.x).1
        v := unaryOverflow config.unaryV .asl s.v s.x (asl16 s.x).1, c := s.x.getLsbD 15 } ∧
    exec .asra s =
      .next { s with
        a := (asr16 s.a).1, n := isNegative (asr16 s.a).1, z := isZero (asr16 s.a).1
        v := unaryOverflow config.unaryV .asr s.v s.a (asr16 s.a).1, c := s.a.getLsbD 0 } ∧
    exec .asrx s =
      .next { s with
        x := (asr16 s.x).1, n := isNegative (asr16 s.x).1, z := isZero (asr16 s.x).1
        v := unaryOverflow config.unaryV .asr s.v s.x (asr16 s.x).1, c := s.x.getLsbD 0 }) ∧
  (∀ v : Word, signChange v (asl16 v).1 = (v.getLsbD 15 != v.getLsbD 14) ∧
    signChange v (asr16 v).1 = false)

/-- R197 and R198: ROL and ROR rotate the register by one bit through C; N and Z from the result, V as
`P_UNARY_V` says, C the evicted bit. -/
def Obligations.RotatesThroughCarry : Prop :=
  (∀ w : Word, decodeOp 0x0E w = .rola ∧ decodeOp 0x0F w = .rolx ∧
    decodeOp 0x10 w = .rora ∧ decodeOp 0x11 w = .rorx) ∧
  (∀ s : State,
    exec .rola s =
      .next { s with
        a := (rol16 s.a s.c).1, n := isNegative (rol16 s.a s.c).1, z := isZero (rol16 s.a s.c).1
        v := unaryOverflow config.unaryV .rol s.v s.a (rol16 s.a s.c).1, c := s.a.getLsbD 15 } ∧
    exec .rolx s =
      .next { s with
        x := (rol16 s.x s.c).1, n := isNegative (rol16 s.x s.c).1, z := isZero (rol16 s.x s.c).1
        v := unaryOverflow config.unaryV .rol s.v s.x (rol16 s.x s.c).1, c := s.x.getLsbD 15 } ∧
    exec .rora s =
      .next { s with
        a := (ror16 s.a s.c).1, n := isNegative (ror16 s.a s.c).1, z := isZero (ror16 s.a s.c).1
        v := unaryOverflow config.unaryV .ror s.v s.a (ror16 s.a s.c).1, c := s.a.getLsbD 0 } ∧
    exec .rorx s =
      .next { s with
        x := (ror16 s.x s.c).1, n := isNegative (ror16 s.x s.c).1, z := isZero (ror16 s.x s.c).1
        v := unaryOverflow config.unaryV .ror s.v s.x (ror16 s.x s.c).1, c := s.x.getLsbD 0 }) ∧
  (∀ (v : Word) (c : Bool), signChange v (rol16 v c).1 = (v.getLsbD 15 != v.getLsbD 14) ∧
    signChange v (ror16 v c).1 = (v.getLsbD 15 != c))

/-! ### Addressing modes -/

/-- R130 to R132: the effective address of each mode, the load path's value with the N and Z it writes,
and the store path, which writes no flag and in immediate mode raises InvalidStoreTarget. -/
def Obligations.ResolverPaths : Prop :=
  (∀ (w : Word) (s : State),
    effectiveAddress .immediate w s = none ∧
    effectiveAddress .direct w s = some (w, s) ∧
    effectiveAddress .indirect w s = some (readWord s w) ∧
    effectiveAddress .stackRelative w s = some (s.sp + w, s) ∧
    effectiveAddress .stackDeferred w s = some (readWord s (s.sp + w)) ∧
    effectiveAddress .indexed w s = some (w + s.x, s) ∧
    effectiveAddress .stackIndexed w s = some (s.sp + w + s.x, s) ∧
    effectiveAddress .stackDeferredIndexed w s = some (readWord s (s.sp + w + s.x))) ∧
  (∀ (cfg : Config) (w : Word) (s : State),
    resolveLoad cfg .immediate .word w s =
      (w, { s with n := isNegative w, z := isZero w }) ∧
    (cfg.byteImm = .fullOperand →
      resolveLoad cfg .immediate .byte w s = (w, { s with n := isNegative w, z := isZero w })) ∧
    (cfg.byteImm = .lowByte →
      resolveLoad cfg .immediate .byte w s =
        ((lowByte w).setWidth 16,
          { s with
            n := isNegative ((lowByte w).setWidth 16), z := isZero ((lowByte w).setWidth 16) }))) ∧
  (∀ (cfg : Config) (m : Mode) (w ea : Word) (s s1 : State),
    effectiveAddress m w s = some (ea, s1) →
    resolveLoad cfg m .word w s =
      ((readWord s1 ea).1,
        { (readWord s1 ea).2 with
          n := isNegative (readWord s1 ea).1, z := isZero (readWord s1 ea).1 }) ∧
    resolveLoad cfg m .byte w s =
      ((readByte s1 ea).1.setWidth 16,
        { (readByte s1 ea).2 with
          n := isNegative ((readByte s1 ea).1.setWidth 16)
          z := isZero ((readByte s1 ea).1.setWidth 16) })) ∧
  (∀ (m : Mode) (w : Word) (s : State), resolveStore m w s = effectiveAddress m w s) ∧
  (∀ (r : Reg) (wd : Width) (w : Word) (s : State),
    storeReg r wd .immediate w s = .fault (.invalidStoreTarget s.opCode s))

/-- Modes 1 to 7 clear of the input port: the value a word load resolves to, as bytes of Ram, and a state
that differs in N and Z alone; a byte load takes the one byte, zero-extended. -/
def Obligations.ModesReadRam : Prop :=
  ∀ (cfg : Config) (m : Mode) (w ea : Word) (s : State),
    (∀ p, pointerCell m w s = some p → p ≠ inPort ∧ p + 1 ≠ inPort) →
    (m = .direct ∧ ea = w ∨ m = .indirect ∧ ea = ramWord s w ∨
      m = .stackRelative ∧ ea = s.sp + w ∨ m = .stackDeferred ∧ ea = ramWord s (s.sp + w) ∨
      m = .indexed ∧ ea = w + s.x ∨ m = .stackIndexed ∧ ea = s.sp + w + s.x ∨
      m = .stackDeferredIndexed ∧ ea = ramWord s (s.sp + w + s.x)) →
    (ea ≠ inPort → ea + 1 ≠ inPort →
      resolveLoad cfg m .word w s =
        (ramWord s ea,
          { s with n := isNegative (ramWord s ea), z := isZero (ramWord s ea) })) ∧
    (ea ≠ inPort →
      resolveLoad cfg m .byte w s =
        ((s.ram.read ea.toNat).setWidth 16,
          { s with n := false, z := decide (s.ram.read ea.toNat = 0) }))

/-! ### Arithmetic, compare, load and store -/

/-- R221 to R224: the register takes the sum with the resolved operand, or the register minus it; N and Z
from the result, V and C from the register before and the operand (of a subtraction by R156); nothing else
changes but the input cursor. -/
def Obligations.AddSubtractWriteResultAndFlags : Prop :=
  (∀ (m : Mode) (w : Word), decodeOp (0x50 ||| m.code) w = .addsp m w ∧
    decodeOp (0x58 ||| m.code) w = .subsp m w ∧ decodeOp (0x60 ||| m.code) w = .adda m w ∧
    decodeOp (0x68 ||| m.code) w = .addx m w ∧ decodeOp (0x70 ||| m.code) w = .suba m w ∧
    decodeOp (0x78 ||| m.code) w = .subx m w) ∧
  ∀ (m : Mode) (w : Word) (s : State),
    let opnd := (resolveLoad config m .word w s).1
    let cur := (resolveLoad config m .word w s).2.inCur
    exec (.addsp m w) s =
      .next { s with
        sp := add16 s.sp opnd, inCur := cur
        n := isNegative (add16 s.sp opnd), z := isZero (add16 s.sp opnd)
        v := isOverflow s.sp opnd, c := isCarry s.sp opnd } ∧
    exec (.subsp m w) s =
      .next { s with
        sp := sub16 s.sp opnd, inCur := cur
        n := isNegative (sub16 s.sp opnd), z := isZero (sub16 s.sp opnd)
        v := subV s.sp opnd, c := subC s.sp opnd } ∧
    exec (.adda m w) s =
      .next { s with
        a := add16 s.a opnd, inCur := cur
        n := isNegative (add16 s.a opnd), z := isZero (add16 s.a opnd)
        v := isOverflow s.a opnd, c := isCarry s.a opnd } ∧
    exec (.addx m w) s =
      .next { s with
        x := add16 s.x opnd, inCur := cur
        n := isNegative (add16 s.x opnd), z := isZero (add16 s.x opnd)
        v := isOverflow s.x opnd, c := isCarry s.x opnd } ∧
    exec (.suba m w) s =
      .next { s with
        a := sub16 s.a opnd, inCur := cur
        n := isNegative (sub16 s.a opnd), z := isZero (sub16 s.a opnd)
        v := subV s.a opnd, c := subC s.a opnd } ∧
    exec (.subx m w) s =
      .next { s with
        x := sub16 s.x opnd, inCur := cur
        n := isNegative (sub16 s.x opnd), z := isZero (sub16 s.x opnd)
        v := subV s.x opnd, c := subC s.x opnd }

/-- R225 and R226: the register takes the bitwise AND or OR with the resolved operand; N and Z from the
result; V and C unchanged, and nothing else but the input cursor. -/
def Obligations.AndOrWriteResult : Prop :=
  (∀ (m : Mode) (w : Word), decodeOp (0x80 ||| m.code) w = .anda m w ∧
    decodeOp (0x88 ||| m.code) w = .andx m w ∧ decodeOp (0x90 ||| m.code) w = .ora m w ∧
    decodeOp (0x98 ||| m.code) w = .orx m w) ∧
  ∀ (m : Mode) (w : Word) (s : State),
    let opnd := (resolveLoad config m .word w s).1
    let cur := (resolveLoad config m .word w s).2.inCur
    exec (.anda m w) s =
      .next { s with
        a := and16 s.a opnd, inCur := cur
        n := isNegative (and16 s.a opnd), z := isZero (and16 s.a opnd) } ∧
    exec (.andx m w) s =
      .next { s with
        x := and16 s.x opnd, inCur := cur
        n := isNegative (and16 s.x opnd), z := isZero (and16 s.x opnd) } ∧
    exec (.ora m w) s =
      .next { s with
        a := or16 s.a opnd, inCur := cur
        n := isNegative (or16 s.a opnd), z := isZero (or16 s.a opnd) } ∧
    exec (.orx m w) s =
      .next { s with
        x := or16 s.x opnd, inCur := cur
        n := isNegative (or16 s.x opnd), z := isZero (or16 s.x opnd) }

/-- R250: a compare sets N and Z from operand minus register, V and C by R156, and writes no register
and no byte; opcode bit 4 makes no difference. -/
def Obligations.CompareSetsFlagsOnly : Prop :=
  (∀ (m : Mode) (w : Word), decodeOp (0xA0 ||| m.code) w = .cpwa m w ∧
    decodeOp (0xA8 ||| m.code) w = .cpwx m w ∧ decodeOp (0xB0 ||| m.code) w = .cpba m w ∧
    decodeOp (0xB8 ||| m.code) w = .cpbx m w) ∧
  ∀ (m : Mode) (w : Word) (s : State),
    let opnd := (resolveLoad config m .word w s).1
    let cur := (resolveLoad config m .word w s).2.inCur
    let flags := fun rv : Word =>
      { s with
        inCur := cur, n := isNegative (sub16 opnd rv), z := isZero (sub16 opnd rv)
        v := subV opnd rv, c := subC opnd rv }
    exec (.cpwa m w) s = .next (flags s.a) ∧ exec (.cpwx m w) s = .next (flags s.x) ∧
    exec (.cpba m w) s = .next (flags s.a) ∧ exec (.cpbx m w) s = .next (flags s.x)

/-- R260 and R261: a load puts the resolved value into the whole register, with N and Z from it; V and C
are unchanged, and nothing else changes but the input cursor. -/
def Obligations.LoadsWriteRegister : Prop :=
  (∀ (m : Mode) (w : Word), decodeOp (0xC0 ||| m.code) w = .ldwa m w ∧
    decodeOp (0xC8 ||| m.code) w = .ldwx m w ∧ decodeOp (0xD0 ||| m.code) w = .ldba m w ∧
    decodeOp (0xD8 ||| m.code) w = .ldbx m w) ∧
  ∀ (m : Mode) (w : Word) (s : State),
    let pw := resolveLoad config m .word w s
    let pb := resolveLoad config m .byte w s
    exec (.ldwa m w) s =
      .next { s with
        a := pw.1, inCur := pw.2.inCur, n := isNegative pw.1, z := isZero pw.1 } ∧
    exec (.ldwx m w) s =
      .next { s with
        x := pw.1, inCur := pw.2.inCur, n := isNegative pw.1, z := isZero pw.1 } ∧
    exec (.ldba m w) s =
      .next { s with
        a := pb.1, inCur := pb.2.inCur, n := isNegative pb.1, z := isZero pb.1 } ∧
    exec (.ldbx m w) s =
      .next { s with
        x := pb.1, inCur := pb.2.inCur, n := isNegative pb.1, z := isZero pb.1 }

/-- R263 and R264: outside immediate mode a store writes the register, or its low byte, at the resolved
address, on the state the pointer read left, and no flag; in immediate mode it is the fatal error, with
nothing written. -/
def Obligations.StoresWriteResolvedAddress : Prop :=
  (∀ (m : Mode) (w : Word), decodeOp (0xE0 ||| m.code) w = .stwa m w ∧
    decodeOp (0xE8 ||| m.code) w = .stwx m w ∧ decodeOp (0xF0 ||| m.code) w = .stba m w ∧
    decodeOp (0xF8 ||| m.code) w = .stbx m w) ∧
  (∀ (m : Mode) (w : Word) (s : State), m ≠ .immediate →
    ∃ ea s1, resolveStore m w s = some (ea, s1) ∧ s1 = { s with inCur := s1.inCur } ∧
      exec (.stwa m w) s = .next (writeWord s1 ea s.a) ∧
      exec (.stwx m w) s = .next (writeWord s1 ea s.x) ∧
      exec (.stba m w) s = .next (writeByte s1 ea (lowByte s.a)) ∧
      exec (.stbx m w) s = .next (writeByte s1 ea (lowByte s.x))) ∧
  ∀ (w : Word) (s : State),
    exec (.stwa .immediate w) s = .fault (.invalidStoreTarget s.opCode s) ∧
    exec (.stwx .immediate w) s = .fault (.invalidStoreTarget s.opCode s) ∧
    exec (.stba .immediate w) s = .fault (.invalidStoreTarget s.opCode s) ∧
    exec (.stbx .immediate w) s = .fault (.invalidStoreTarget s.opCode s)

/-- R138: a store through modes 1 to 7 and a load of the same width, into either register, through the same
mode and operand give the value back, provided that between them SP, X, the bytes stored and the pointer cell
stay as the store left them, the store did not overwrite its own pointer cell, and no byte involved is a
port's. -/
def Obligations.StoreThenLoadReturnsValue : Prop :=
  (∀ (m : Mode) (w ea : Word) (s s1 : State), resolveStore m w s = some (ea, s1) →
    clearOfPorts ea → clearOfPorts (ea + 1) →
    (∀ p, pointerCell m w s = some p → clearOfPorts p ∧ clearOfPorts (p + 1) ∧
      p ≠ ea ∧ p ≠ ea + 1 ∧ p + 1 ≠ ea) →
    ∃ t u, exec (.stwa m w) s = .next t ∧ exec (.stwx m w) s = .next u ∧
      (∀ t' : State, t'.sp = t.sp → t'.x = t.x → ramWord t' ea = ramWord t ea →
        (∀ p, pointerCell m w s = some p → ramWord t' p = ramWord t p) →
        ∃ r r', exec (.ldwa m w) t' = .next r ∧ r.a = s.a ∧
          exec (.ldwx m w) t' = .next r' ∧ r'.x = s.a) ∧
      (∀ u' : State, u'.sp = u.sp → u'.x = u.x → ramWord u' ea = ramWord u ea →
        (∀ p, pointerCell m w s = some p → ramWord u' p = ramWord u p) →
        ∃ r r', exec (.ldwx m w) u' = .next r ∧ r.x = s.x ∧
          exec (.ldwa m w) u' = .next r' ∧ r'.a = s.x)) ∧
  (∀ (m : Mode) (w ea : Word) (s s1 : State), resolveStore m w s = some (ea, s1) →
    clearOfPorts ea →
    (∀ p, pointerCell m w s = some p → clearOfPorts p ∧ clearOfPorts (p + 1) ∧
      p ≠ ea ∧ p + 1 ≠ ea) →
    ∃ t u, exec (.stba m w) s = .next t ∧ exec (.stbx m w) s = .next u ∧
      (∀ t' : State, t'.sp = t.sp → t'.x = t.x →
        t'.ram.read ea.toNat = t.ram.read ea.toNat →
        (∀ p, pointerCell m w s = some p → ramWord t' p = ramWord t p) →
        ∃ r r', exec (.ldba m w) t' = .next r ∧ r.a = (lowByte s.a).setWidth 16 ∧
          exec (.ldbx m w) t' = .next r' ∧ r'.x = (lowByte s.a).setWidth 16) ∧
      (∀ u' : State, u'.sp = u.sp → u'.x = u.x →
        u'.ram.read ea.toNat = u.ram.read ea.toNat →
        (∀ p, pointerCell m w s = some p → ramWord u' p = ramWord u p) →
        ∃ r r', exec (.ldbx m w) u' = .next r ∧ r.x = (lowByte s.x).setWidth 16 ∧
          exec (.ldba m w) u' = .next r' ∧ r'.a = (lowByte s.x).setWidth 16))

/-! ### Branches and fatal errors -/

/-- R280 to R290: a branch takes PC to Operand, or Operand + X, exactly when its condition on the flags
holds, and otherwise changes nothing; taken or not, it writes nothing but PC. -/
def Obligations.BranchesFollowConditions : Prop :=
  (∀ (ix : Index) (w : Word),
    decodeOp (0x12 ||| ix.code) w = .br ix w ∧ decodeOp (0x14 ||| ix.code) w = .brle ix w ∧
    decodeOp (0x16 ||| ix.code) w = .brlt ix w ∧ decodeOp (0x18 ||| ix.code) w = .breq ix w ∧
    decodeOp (0x1A ||| ix.code) w = .brne ix w ∧ decodeOp (0x1C ||| ix.code) w = .brge ix w ∧
    decodeOp (0x1E ||| ix.code) w = .brgt ix w ∧ decodeOp (0x20 ||| ix.code) w = .brv ix w ∧
    decodeOp (0x22 ||| ix.code) w = .brc ix w) ∧
  ∀ (ix : Index) (w tgt : Word) (s : State),
    (ix = .plain ∧ tgt = w ∨ ix = .indexed ∧ tgt = w + s.x) →
    let go : Bool → Result := fun b => .next (if b then { s with pc := tgt } else s)
    exec (.br ix w) s = go true ∧ exec (.brle ix w) s = go (s.n || s.z) ∧
    exec (.brlt ix w) s = go s.n ∧ exec (.breq ix w) s = go s.z ∧
    exec (.brne ix w) s = go (!s.z) ∧ exec (.brge ix w) s = go (!s.n) ∧
    exec (.brgt ix w) s = go (!s.n && !s.z) ∧ exec (.brv ix w) s = go s.v ∧
    exec (.brc ix w) s = go s.c

/-- R301, R302: the unknown opcodes raise UnknownOpcode and the stores in immediate mode
InvalidStoreTarget, each with the opcode register and the state as the fetch left it, nothing written. -/
def Obligations.FatalInstructionsFault : Prop :=
  (∀ (op : Byte) (w : Word) (s : State),
    exec (.unknown26 op w) s = .fault (.unknownOpcode s.opCode s) ∧
    exec (.unknown28 op w) s = .fault (.unknownOpcode s.opCode s) ∧
    exec (.unknown30 op w) s = .fault (.unknownOpcode s.opCode s) ∧
    exec (.unknown40 op w) s = .fault (.unknownOpcode s.opCode s)) ∧
  (∀ (w : Word) (s : State),
    exec (.stwa .immediate w) s = .fault (.invalidStoreTarget s.opCode s) ∧
    exec (.stwx .immediate w) s = .fault (.invalidStoreTarget s.opCode s) ∧
    exec (.stba .immediate w) s = .fault (.invalidStoreTarget s.opCode s) ∧
    exec (.stbx .immediate w) s = .fault (.invalidStoreTarget s.opCode s))

/-! ### Frames -/

/-- R20, R21, R23, R25, R27: an instruction that executes leaves every register and flag alone but those
its row of the writers' table names, and OpCode, Operand, HALT, StdIn and the run outcome always; the
input cursor moves only where the row says it may. -/
def Obligations.RegisterAndFlagFrame : Prop :=
  ∀ (i : Instr) (s t : State), exec i s = .next t →
    (Part.a ∉ mayWrite i → t.a = s.a) ∧ (Part.x ∉ mayWrite i → t.x = s.x) ∧
    (Part.sp ∉ mayWrite i → t.sp = s.sp) ∧ (Part.pc ∉ mayWrite i → t.pc = s.pc) ∧
    (Part.n ∉ mayWrite i → t.n = s.n) ∧ (Part.z ∉ mayWrite i → t.z = s.z) ∧
    (Part.v ∉ mayWrite i → t.v = s.v) ∧ (Part.c ∉ mayWrite i → t.c = s.c) ∧
    (Part.input ∉ mayWrite i → t.inCur = s.inCur) ∧
    t.opCode = s.opCode ∧ t.operand = s.operand ∧ t.halt = s.halt ∧ t.stdIn = s.stdIn ∧
    t.status = s.status

/-- Every byte of Ram, StdOut and OutCur are unchanged by an instruction other than a store or CALL. -/
def Obligations.NonStoringMemoryFrame : Prop :=
  ∀ (i : Instr) (s t : State), exec i s = .next t → Part.memory ∉ mayWrite i →
    (∀ a : Word, t.ram.read a.toNat = s.ram.read a.toNat) ∧
    (∀ k : Byte, t.stdOut.read k.toNat = s.stdOut.read k.toNat) ∧ t.outCur = s.outCur

/-- The storing instructions: a store changes no byte of Ram but those from its resolved address on, two
for a word and one for a byte; CALL none but the two from SP - 2 on; and none of them Ram's byte under
the output port. StdOut changes at OutCur alone, and only where a stored byte falls on the output port. -/
def Obligations.StoringMemoryFrame : Prop :=
  (∀ (m : Mode) (w ea : Word) (s s1 t : State), resolveStore m w s = some (ea, s1) →
    (exec (.stwa m w) s = .next t ∨ exec (.stwx m w) s = .next t) →
      (∀ a : Word, (a ≠ ea ∧ a ≠ ea + 1) ∨ a = outPort →
        t.ram.read a.toNat = s.ram.read a.toNat) ∧
      (∀ k : Byte, k ≠ s.outCur ∨ (ea ≠ outPort ∧ ea + 1 ≠ outPort) →
        t.stdOut.read k.toNat = s.stdOut.read k.toNat) ∧
      (ea ≠ outPort → ea + 1 ≠ outPort → t.outCur = s.outCur)) ∧
  (∀ (m : Mode) (w ea : Word) (s s1 t : State), resolveStore m w s = some (ea, s1) →
    (exec (.stba m w) s = .next t ∨ exec (.stbx m w) s = .next t) →
      (∀ a : Word, a ≠ ea ∨ a = outPort → t.ram.read a.toNat = s.ram.read a.toNat) ∧
      (∀ k : Byte, k ≠ s.outCur ∨ ea ≠ outPort →
        t.stdOut.read k.toNat = s.stdOut.read k.toNat) ∧
      (ea ≠ outPort → t.outCur = s.outCur)) ∧
  (∀ (ix : Index) (w : Word) (s t : State), exec (.call ix w) s = .next t →
    (∀ a : Word, (a ≠ s.sp - 2 ∧ a ≠ s.sp - 2 + 1) ∨ a = outPort →
      t.ram.read a.toNat = s.ram.read a.toNat) ∧
    (∀ k : Byte, k ≠ s.outCur ∨ (s.sp - 2 ≠ outPort ∧ s.sp - 2 + 1 ≠ outPort) →
      t.stdOut.read k.toNat = s.stdOut.read k.toNat) ∧
    (s.sp - 2 ≠ outPort → s.sp - 2 + 1 ≠ outPort → t.outCur = s.outCur))
end

