-- ==== Sys2Proof/Laws/Decode.lean ====
section
/-!
SUPPORT. The small lemmas of the decoder: how a list of bytes is taken apart, and that the operand word
makes no difference to which instruction an opcode selects (40_fetch_decode_dispatch.md R105).
-/

namespace Sys2Proof

theorem decode_of_unary {op : Byte} (rest : List Byte) (h : requiresOperand op = false) :
    decode (op :: rest) = .ok (decodeOp op 0, rest) := by
  simp [decode, h]

theorem decode_of_operand {op : Byte} (hi lo : Byte) (rest : List Byte)
    (h : requiresOperand op = true) :
    decode (op :: hi :: lo :: rest) = .ok (decodeOp op (wordOfBytes hi lo), rest) := by
  simp [decode, h, decodeWithOperand]

theorem requiresOperand_eq_true {op : Byte} : requiresOperand op = true ↔ 0x12 ≤ op.toNat := by
  simp [requiresOperand]

theorem requiresOperand_eq_false {op : Byte} : requiresOperand op = false ↔ op.toNat < 0x12 := by
  simp [requiresOperand]

/-- Below 0x12 the decoder does not look at the operand word. -/
theorem decodeOp_of_unary {op : Byte} (w w' : Word) (h : requiresOperand op = false) :
    decodeOp op w = decodeOp op w' := by
  rw [requiresOperand_eq_false] at h
  rw [decodeOp, decodeOp, if_pos h, if_pos h]

/-- The operand word makes no difference to the opcode, the row or the well-formedness of the instruction
an opcode selects (R105). -/
theorem decodeOp_parts (op : Byte) (w w' : Word) :
    opcodeOf (decodeOp op w) = opcodeOf (decodeOp op w') ∧
      mnemonicOf (decodeOp op w) = mnemonicOf (decodeOp op w') ∧
      (decodeOp op w).wellFormed = (decodeOp op w').wellFormed := by
  unfold decodeOp
  split
  · exact ⟨rfl, rfl, rfl⟩
  split
  · unfold decodeBranch; split <;> exact ⟨rfl, rfl, rfl⟩
  split
  · unfold decodeUnknown
    split; · exact ⟨rfl, rfl, rfl⟩
    split; · exact ⟨rfl, rfl, rfl⟩
    split <;> exact ⟨rfl, rfl, rfl⟩
  · unfold decodeGroup; split <;> exact ⟨rfl, rfl, rfl⟩

/-- From 0x12 on the decoded instruction carries the operand word (R81). -/
theorem operandOf_decodeOp {op : Byte} (w : Word) (h : requiresOperand op = true) :
    operandOf (decodeOp op w) = some w := by
  rw [requiresOperand_eq_true] at h
  unfold decodeOp
  rw [if_neg (by omega)]
  split
  · unfold decodeBranch; split <;> rfl
  split
  · unfold decodeUnknown
    split; · rfl
    split; · rfl
    split <;> rfl
  · unfold decodeGroup; split <;> rfl

/-- Below 0x12 it carries none. -/
theorem operandOf_decodeOp_unary {op : Byte} (w : Word) (h : requiresOperand op = false) :
    operandOf (decodeOp op w) = none := by
  rw [requiresOperand_eq_false] at h
  unfold decodeOp
  rw [if_pos h]
  unfold decodeUnary
  split <;> rfl

/-- The mode a code stands for has that code. -/
@[simp] theorem Mode.ofCode_code (m : Mode) : Mode.ofCode m.code.toNat = m := by
  cases m <;> rfl

@[simp] theorem Index.ofCode_code (ix : Index) : Index.ofCode ix.code.toNat = ix := by
  cases ix <;> rfl

end Sys2Proof
end

