-- ==== Sys2Proof/Laws/Flags.lean ====
section
/-!
SUPPORT. The small lemmas of the flag and arithmetic functions (42_flag_alu.md).
-/

namespace Sys2Proof.Machine

theorem neg16_eq (v : Word) : neg16 v = -v := (BitVec.neg_eq_not_add v).symm

theorem sub16_eq (a b : Word) : sub16 a b = a - b := by
  rw [sub16, add16, neg16_eq, BitVec.sub_eq_add_neg]

theorem isNegative_eq_msb (v : Word) : isNegative v = v.msb := rfl

@[simp] theorem carryIn_true : carryIn true = 1 := rfl

@[simp] theorem carryIn_false : carryIn false = 0 := rfl

end Sys2Proof.Machine
end

