-- ==== Sys2Proof/Laws/Memory.lean ====
section
/-!
SUPPORT. The laws of the byte store: a read after a write, and that every operation keeps the canonical
form. The read laws hold of every store, canonical or not.
-/

namespace Sys2Proof.Machine

@[simp] theorem Memory.read_nil (i : Nat) : Memory.read [] i = Memory.blank := rfl

theorem Memory.read_cons (k : Nat) (w : Byte) (m : Memory) (i : Nat) :
    Memory.read ((k, w) :: m) i = if k = i then w else Memory.read m i := rfl

/-! ### erase and insert -/

theorem Memory.erase_cons (k : Nat) (w : Byte) (m : Memory) (i : Nat) :
    Memory.erase ((k, w) :: m) i = if k = i then Memory.erase m i else (k, w) :: Memory.erase m i := by
  by_cases h : k = i <;> simp [Memory.erase, h]

theorem Memory.read_erase_same (m : Memory) (i : Nat) : (m.erase i).read i = Memory.blank := by
  induction m with
  | nil => rfl
  | cons e m ih =>
    obtain ⟨k, w⟩ := e
    rw [Memory.erase_cons]
    split
    · exact ih
    · next h => rw [Memory.read_cons, if_neg h, ih]

theorem Memory.read_erase_other (m : Memory) {i j : Nat} (h : j ≠ i) :
    (m.erase i).read j = m.read j := by
  induction m with
  | nil => rfl
  | cons e m ih =>
    obtain ⟨k, w⟩ := e
    rw [Memory.erase_cons, Memory.read_cons]
    split
    · next hk => rw [ih, if_neg (by omega)]
    · rw [Memory.read_cons, ih]

theorem Memory.read_insert_other (m : Memory) {i j : Nat} (b : Byte) (h : j ≠ i) :
    (m.insert i b).read j = m.read j := by
  induction m with
  | nil => rw [Memory.insert, Memory.read_cons, if_neg (Ne.symm h)]
  | cons e m ih =>
    obtain ⟨k, w⟩ := e
    rw [Memory.insert]
    split
    · rw [Memory.read_cons, if_neg (Ne.symm h)]
    · rw [Memory.read_cons, Memory.read_cons, ih]

/-- Where no entry has the index, the inserted one is read. -/
theorem Memory.read_insert_same (m : Memory) (i : Nat) (b : Byte) (h : ∀ e ∈ m, e.1 ≠ i) :
    (m.insert i b).read i = b := by
  induction m with
  | nil => rw [Memory.insert, Memory.read_cons, if_pos rfl]
  | cons e m ih =>
    obtain ⟨k, w⟩ := e
    rw [Memory.insert]
    split
    · rw [Memory.read_cons, if_pos rfl]
    · rw [Memory.read_cons, if_neg (h (k, w) (by simp)), ih fun e he => h e (by simp [he])]

theorem Memory.erase_ne (m : Memory) (i : Nat) : ∀ e ∈ m.erase i, e.1 ≠ i := by
  intro e he
  simpa using (List.mem_filter.mp he).2

/-! ### read and write -/

@[simp] theorem Memory.read_write_same (m : Memory) (i : Nat) (b : Byte) :
    (m.write i b).read i = b := by
  rw [Memory.write]
  split
  · next h => rw [Memory.read_erase_same, h]
  · exact Memory.read_insert_same _ _ _ (Memory.erase_ne m i)

theorem Memory.read_write_other (m : Memory) {i j : Nat} (b : Byte) (h : j ≠ i) :
    (m.write i b).read j = m.read j := by
  rw [Memory.write]
  split
  · exact Memory.read_erase_other m h
  · rw [Memory.read_insert_other _ _ h, Memory.read_erase_other m h]

/-- What reading after a write gives, at every index. -/
theorem Memory.read_write (m : Memory) (i j : Nat) (b : Byte) :
    (m.write i b).read j = if j = i then b else m.read j := by
  split
  · next h => rw [h, Memory.read_write_same]
  · next h => exact Memory.read_write_other m b h

/-- What the raw copy of LoadProgram gives, at every index. -/
theorem Memory.read_load (bs : List Byte) (m : Memory) (i j : Nat) :
    (m.load i bs).read j =
      if i ≤ j ∧ j < i + bs.length then bs.getD (j - i) Memory.blank else m.read j := by
  induction bs generalizing m i with
  | nil => rw [Memory.load, if_neg (by simp only [List.length_nil]; omega)]
  | cons b bs ih =>
    rw [Memory.load, ih, Memory.read_write]
    by_cases h : j = i
    · subst h
      simp
    · by_cases h' : i + 1 ≤ j
      · have hs : j - i = (j - (i + 1)) + 1 := by omega
        by_cases h'' : j < i + 1 + bs.length
        · rw [if_pos ⟨h', h''⟩, if_pos (by simp only [List.length_cons]; omega), hs, List.getD_cons_succ]
        · rw [if_neg (by omega), if_neg h, if_neg (by simp only [List.length_cons]; omega)]
      · rw [if_neg (by omega), if_neg h, if_neg (by simp only [List.length_cons]; omega)]

/-! ### The canonical form -/

theorem Memory.wfFrom_cons (bound lo k : Nat) (w : Byte) (m : Memory) :
    Memory.wfFrom bound lo ((k, w) :: m) = true ↔
      lo ≤ k ∧ k < bound ∧ w ≠ Memory.blank ∧ Memory.wfFrom bound (k + 1) m = true := by
  simp [Memory.wfFrom, and_assoc]

theorem Memory.wfFrom_le {bound lo lo' : Nat} {m : Memory} (h : lo' ≤ lo)
    (hm : Memory.wfFrom bound lo m = true) : Memory.wfFrom bound lo' m = true := by
  cases m with
  | nil => rfl
  | cons e m =>
    obtain ⟨k, w⟩ := e
    rw [Memory.wfFrom_cons] at hm ⊢
    exact ⟨by omega, hm.2⟩

theorem Memory.wfFrom_erase {bound lo : Nat} {m : Memory} (i : Nat)
    (hm : Memory.wfFrom bound lo m = true) : Memory.wfFrom bound lo (m.erase i) = true := by
  induction m generalizing lo with
  | nil => rfl
  | cons e m ih =>
    obtain ⟨k, w⟩ := e
    rw [Memory.wfFrom_cons] at hm
    rw [Memory.erase_cons]
    split
    · exact Memory.wfFrom_le (by omega) (ih hm.2.2.2)
    · exact (Memory.wfFrom_cons ..).mpr ⟨hm.1, hm.2.1, hm.2.2.1, ih hm.2.2.2⟩

theorem Memory.wfFrom_insert {bound lo i : Nat} {m : Memory} {b : Byte} (hlo : lo ≤ i)
    (hi : i < bound) (hb : b ≠ Memory.blank) (hne : ∀ e ∈ m, e.1 ≠ i)
    (hm : Memory.wfFrom bound lo m = true) : Memory.wfFrom bound lo (m.insert i b) = true := by
  induction m generalizing lo with
  | nil => exact (Memory.wfFrom_cons ..).mpr ⟨hlo, hi, hb, rfl⟩
  | cons e m ih =>
    obtain ⟨k, w⟩ := e
    rw [Memory.wfFrom_cons] at hm
    have hk : k ≠ i := hne (k, w) (by simp)
    rw [Memory.insert]
    split
    · exact (Memory.wfFrom_cons ..).mpr
        ⟨hlo, hi, hb, (Memory.wfFrom_cons ..).mpr ⟨by omega, hm.2⟩⟩
    · exact (Memory.wfFrom_cons ..).mpr ⟨hm.1, hm.2.1, hm.2.2.1,
        ih (by omega) (fun e he => hne e (by simp [he])) hm.2.2.2⟩

/-- A write keeps the canonical form. -/
theorem Memory.wf_write {bound i : Nat} {m : Memory} (b : Byte) (hi : i < bound)
    (hm : m.wf bound = true) : (m.write i b).wf bound = true := by
  rw [Memory.write]
  split
  · exact Memory.wfFrom_erase i hm
  · next hb =>
    exact Memory.wfFrom_insert (Nat.zero_le i) hi hb (Memory.erase_ne m i) (Memory.wfFrom_erase i hm)

/-- The raw copy of LoadProgram keeps the canonical form. -/
theorem Memory.wf_load {bound : Nat} (bs : List Byte) {m : Memory} (i : Nat)
    (hi : i + bs.length ≤ bound) (hm : m.wf bound = true) : (m.load i bs).wf bound = true := by
  induction bs generalizing m i with
  | nil => exact hm
  | cons b bs ih =>
    rw [List.length_cons] at hi
    exact ih (i + 1) (by omega) (Memory.wf_write b (by omega) hm)

@[simp] theorem Memory.wf_nil (bound : Nat) : Memory.wf bound [] = true := rfl

/-! ### Equal reads, equal data -/

theorem Memory.read_of_wfFrom {bound lo : Nat} {m : Memory} (hm : Memory.wfFrom bound lo m = true)
    {i : Nat} (hi : i < lo) : m.read i = Memory.blank := by
  induction m generalizing lo with
  | nil => rfl
  | cons e m ih =>
    obtain ⟨k, w⟩ := e
    rw [Memory.wfFrom_cons] at hm
    rw [Memory.read_cons, if_neg (by omega)]
    exact ih hm.2.2.2 (by omega)

theorem Memory.ext_wfFrom {bound lo : Nat} {m m' : Memory} (hm : Memory.wfFrom bound lo m = true)
    (hm' : Memory.wfFrom bound lo m' = true) (h : ∀ i, m.read i = m'.read i) : m = m' := by
  induction m generalizing lo m' with
  | nil =>
    cases m' with
    | nil => rfl
    | cons e m' =>
      obtain ⟨k, w⟩ := e
      rw [Memory.wfFrom_cons] at hm'
      exact absurd ((h k).symm.trans (Memory.read_nil k)) (by simpa [Memory.read_cons] using hm'.2.2.1)
  | cons e m ih =>
    obtain ⟨k, w⟩ := e
    rw [Memory.wfFrom_cons] at hm
    cases m' with
    | nil => exact absurd (h k) (by simpa [Memory.read_cons] using hm.2.2.1)
    | cons e' m' =>
      obtain ⟨k', w'⟩ := e'
      rw [Memory.wfFrom_cons] at hm'
      have hk : k = k' := by
        by_contra hne
        rcases Nat.lt_or_gt_of_ne hne with hlt | hlt
        · have h1 := h k
          rw [Memory.read_cons, if_pos rfl, Memory.read_cons, if_neg (by omega),
            Memory.read_of_wfFrom hm'.2.2.2 (by omega)] at h1
          exact hm.2.2.1 h1
        · have h1 := h k'
          rw [Memory.read_cons, if_neg (by omega), Memory.read_of_wfFrom hm.2.2.2 (by omega),
            Memory.read_cons, if_pos rfl] at h1
          exact hm'.2.2.1 h1.symm
      subst hk
      have hw : w = w' := by simpa [Memory.read_cons] using h k
      subst hw
      refine congrArg _ (ih hm.2.2.2 hm'.2.2.2 fun i => ?_)
      by_cases hi : i = k
      · subst hi
        rw [Memory.read_of_wfFrom hm.2.2.2 (by omega), Memory.read_of_wfFrom hm'.2.2.2 (by omega)]
      · simpa [Memory.read_cons, Ne.symm hi] using h i

/-- Canonical stores that read alike are equal data. -/
theorem Memory.ext_wf {bound : Nat} {m m' : Memory} (hm : m.wf bound = true) (hm' : m'.wf bound = true)
    (h : ∀ i, m.read i = m'.read i) : m = m' :=
  Memory.ext_wfFrom hm hm' h

end Sys2Proof.Machine
end

