-- ==== Sys2Proof/Laws/State.lean ====
section
/-!
SUPPORT. The state's small lemmas: one per field per update, and the register file's two.
-/

namespace Sys2Proof.Machine

/-! ### setPc -/

@[simp] theorem State.setPc_a (s : State) (u : Word) : (s.setPc u).a = s.a := rfl
@[simp] theorem State.setPc_x (s : State) (u : Word) : (s.setPc u).x = s.x := rfl
@[simp] theorem State.setPc_pc (s : State) (u : Word) : (s.setPc u).pc = u := rfl
@[simp] theorem State.setPc_sp (s : State) (u : Word) : (s.setPc u).sp = s.sp := rfl
@[simp] theorem State.setPc_n (s : State) (u : Word) : (s.setPc u).n = s.n := rfl
@[simp] theorem State.setPc_z (s : State) (u : Word) : (s.setPc u).z = s.z := rfl
@[simp] theorem State.setPc_v (s : State) (u : Word) : (s.setPc u).v = s.v := rfl
@[simp] theorem State.setPc_c (s : State) (u : Word) : (s.setPc u).c = s.c := rfl
@[simp] theorem State.setPc_opCode (s : State) (u : Word) : (s.setPc u).opCode = s.opCode := rfl
@[simp] theorem State.setPc_operand (s : State) (u : Word) : (s.setPc u).operand = s.operand := rfl
@[simp] theorem State.setPc_halt (s : State) (u : Word) : (s.setPc u).halt = s.halt := rfl
@[simp] theorem State.setPc_ram (s : State) (u : Word) : (s.setPc u).ram = s.ram := rfl
@[simp] theorem State.setPc_stdIn (s : State) (u : Word) : (s.setPc u).stdIn = s.stdIn := rfl
@[simp] theorem State.setPc_inCur (s : State) (u : Word) : (s.setPc u).inCur = s.inCur := rfl
@[simp] theorem State.setPc_stdOut (s : State) (u : Word) : (s.setPc u).stdOut = s.stdOut := rfl
@[simp] theorem State.setPc_outCur (s : State) (u : Word) : (s.setPc u).outCur = s.outCur := rfl
@[simp] theorem State.setPc_status (s : State) (u : Word) : (s.setPc u).status = s.status := rfl

/-! ### setNZ -/

@[simp] theorem State.setNZ_a (s : State) (u : Word) : (s.setNZ u).a = s.a := rfl
@[simp] theorem State.setNZ_x (s : State) (u : Word) : (s.setNZ u).x = s.x := rfl
@[simp] theorem State.setNZ_pc (s : State) (u : Word) : (s.setNZ u).pc = s.pc := rfl
@[simp] theorem State.setNZ_sp (s : State) (u : Word) : (s.setNZ u).sp = s.sp := rfl
@[simp] theorem State.setNZ_n (s : State) (u : Word) : (s.setNZ u).n = isNegative u := rfl
@[simp] theorem State.setNZ_z (s : State) (u : Word) : (s.setNZ u).z = isZero u := rfl
@[simp] theorem State.setNZ_v (s : State) (u : Word) : (s.setNZ u).v = s.v := rfl
@[simp] theorem State.setNZ_c (s : State) (u : Word) : (s.setNZ u).c = s.c := rfl
@[simp] theorem State.setNZ_opCode (s : State) (u : Word) : (s.setNZ u).opCode = s.opCode := rfl
@[simp] theorem State.setNZ_operand (s : State) (u : Word) : (s.setNZ u).operand = s.operand := rfl
@[simp] theorem State.setNZ_halt (s : State) (u : Word) : (s.setNZ u).halt = s.halt := rfl
@[simp] theorem State.setNZ_ram (s : State) (u : Word) : (s.setNZ u).ram = s.ram := rfl
@[simp] theorem State.setNZ_stdIn (s : State) (u : Word) : (s.setNZ u).stdIn = s.stdIn := rfl
@[simp] theorem State.setNZ_inCur (s : State) (u : Word) : (s.setNZ u).inCur = s.inCur := rfl
@[simp] theorem State.setNZ_stdOut (s : State) (u : Word) : (s.setNZ u).stdOut = s.stdOut := rfl
@[simp] theorem State.setNZ_outCur (s : State) (u : Word) : (s.setNZ u).outCur = s.outCur := rfl
@[simp] theorem State.setNZ_status (s : State) (u : Word) : (s.setNZ u).status = s.status := rfl

/-! ### setV -/

@[simp] theorem State.setV_a (s : State) (b : Bool) : (s.setV b).a = s.a := rfl
@[simp] theorem State.setV_x (s : State) (b : Bool) : (s.setV b).x = s.x := rfl
@[simp] theorem State.setV_pc (s : State) (b : Bool) : (s.setV b).pc = s.pc := rfl
@[simp] theorem State.setV_sp (s : State) (b : Bool) : (s.setV b).sp = s.sp := rfl
@[simp] theorem State.setV_n (s : State) (b : Bool) : (s.setV b).n = s.n := rfl
@[simp] theorem State.setV_z (s : State) (b : Bool) : (s.setV b).z = s.z := rfl
@[simp] theorem State.setV_v (s : State) (b : Bool) : (s.setV b).v = b := rfl
@[simp] theorem State.setV_c (s : State) (b : Bool) : (s.setV b).c = s.c := rfl
@[simp] theorem State.setV_opCode (s : State) (b : Bool) : (s.setV b).opCode = s.opCode := rfl
@[simp] theorem State.setV_operand (s : State) (b : Bool) : (s.setV b).operand = s.operand := rfl
@[simp] theorem State.setV_halt (s : State) (b : Bool) : (s.setV b).halt = s.halt := rfl
@[simp] theorem State.setV_ram (s : State) (b : Bool) : (s.setV b).ram = s.ram := rfl
@[simp] theorem State.setV_stdIn (s : State) (b : Bool) : (s.setV b).stdIn = s.stdIn := rfl
@[simp] theorem State.setV_inCur (s : State) (b : Bool) : (s.setV b).inCur = s.inCur := rfl
@[simp] theorem State.setV_stdOut (s : State) (b : Bool) : (s.setV b).stdOut = s.stdOut := rfl
@[simp] theorem State.setV_outCur (s : State) (b : Bool) : (s.setV b).outCur = s.outCur := rfl
@[simp] theorem State.setV_status (s : State) (b : Bool) : (s.setV b).status = s.status := rfl

/-! ### setC -/

@[simp] theorem State.setC_a (s : State) (b : Bool) : (s.setC b).a = s.a := rfl
@[simp] theorem State.setC_x (s : State) (b : Bool) : (s.setC b).x = s.x := rfl
@[simp] theorem State.setC_pc (s : State) (b : Bool) : (s.setC b).pc = s.pc := rfl
@[simp] theorem State.setC_sp (s : State) (b : Bool) : (s.setC b).sp = s.sp := rfl
@[simp] theorem State.setC_n (s : State) (b : Bool) : (s.setC b).n = s.n := rfl
@[simp] theorem State.setC_z (s : State) (b : Bool) : (s.setC b).z = s.z := rfl
@[simp] theorem State.setC_v (s : State) (b : Bool) : (s.setC b).v = s.v := rfl
@[simp] theorem State.setC_c (s : State) (b : Bool) : (s.setC b).c = b := rfl
@[simp] theorem State.setC_opCode (s : State) (b : Bool) : (s.setC b).opCode = s.opCode := rfl
@[simp] theorem State.setC_operand (s : State) (b : Bool) : (s.setC b).operand = s.operand := rfl
@[simp] theorem State.setC_halt (s : State) (b : Bool) : (s.setC b).halt = s.halt := rfl
@[simp] theorem State.setC_ram (s : State) (b : Bool) : (s.setC b).ram = s.ram := rfl
@[simp] theorem State.setC_stdIn (s : State) (b : Bool) : (s.setC b).stdIn = s.stdIn := rfl
@[simp] theorem State.setC_inCur (s : State) (b : Bool) : (s.setC b).inCur = s.inCur := rfl
@[simp] theorem State.setC_stdOut (s : State) (b : Bool) : (s.setC b).stdOut = s.stdOut := rfl
@[simp] theorem State.setC_outCur (s : State) (b : Bool) : (s.setC b).outCur = s.outCur := rfl
@[simp] theorem State.setC_status (s : State) (b : Bool) : (s.setC b).status = s.status := rfl

/-! ### setOpCode -/

@[simp] theorem State.setOpCode_a (s : State) (u : Byte) : (s.setOpCode u).a = s.a := rfl
@[simp] theorem State.setOpCode_x (s : State) (u : Byte) : (s.setOpCode u).x = s.x := rfl
@[simp] theorem State.setOpCode_pc (s : State) (u : Byte) : (s.setOpCode u).pc = s.pc := rfl
@[simp] theorem State.setOpCode_sp (s : State) (u : Byte) : (s.setOpCode u).sp = s.sp := rfl
@[simp] theorem State.setOpCode_n (s : State) (u : Byte) : (s.setOpCode u).n = s.n := rfl
@[simp] theorem State.setOpCode_z (s : State) (u : Byte) : (s.setOpCode u).z = s.z := rfl
@[simp] theorem State.setOpCode_v (s : State) (u : Byte) : (s.setOpCode u).v = s.v := rfl
@[simp] theorem State.setOpCode_c (s : State) (u : Byte) : (s.setOpCode u).c = s.c := rfl
@[simp] theorem State.setOpCode_opCode (s : State) (u : Byte) : (s.setOpCode u).opCode = u := rfl
@[simp] theorem State.setOpCode_operand (s : State) (u : Byte) : (s.setOpCode u).operand = s.operand := rfl
@[simp] theorem State.setOpCode_halt (s : State) (u : Byte) : (s.setOpCode u).halt = s.halt := rfl
@[simp] theorem State.setOpCode_ram (s : State) (u : Byte) : (s.setOpCode u).ram = s.ram := rfl
@[simp] theorem State.setOpCode_stdIn (s : State) (u : Byte) : (s.setOpCode u).stdIn = s.stdIn := rfl
@[simp] theorem State.setOpCode_inCur (s : State) (u : Byte) : (s.setOpCode u).inCur = s.inCur := rfl
@[simp] theorem State.setOpCode_stdOut (s : State) (u : Byte) : (s.setOpCode u).stdOut = s.stdOut := rfl
@[simp] theorem State.setOpCode_outCur (s : State) (u : Byte) : (s.setOpCode u).outCur = s.outCur := rfl
@[simp] theorem State.setOpCode_status (s : State) (u : Byte) : (s.setOpCode u).status = s.status := rfl

/-! ### setOperand -/

@[simp] theorem State.setOperand_a (s : State) (u : Word) : (s.setOperand u).a = s.a := rfl
@[simp] theorem State.setOperand_x (s : State) (u : Word) : (s.setOperand u).x = s.x := rfl
@[simp] theorem State.setOperand_pc (s : State) (u : Word) : (s.setOperand u).pc = s.pc := rfl
@[simp] theorem State.setOperand_sp (s : State) (u : Word) : (s.setOperand u).sp = s.sp := rfl
@[simp] theorem State.setOperand_n (s : State) (u : Word) : (s.setOperand u).n = s.n := rfl
@[simp] theorem State.setOperand_z (s : State) (u : Word) : (s.setOperand u).z = s.z := rfl
@[simp] theorem State.setOperand_v (s : State) (u : Word) : (s.setOperand u).v = s.v := rfl
@[simp] theorem State.setOperand_c (s : State) (u : Word) : (s.setOperand u).c = s.c := rfl
@[simp] theorem State.setOperand_opCode (s : State) (u : Word) : (s.setOperand u).opCode = s.opCode := rfl
@[simp] theorem State.setOperand_operand (s : State) (u : Word) : (s.setOperand u).operand = u := rfl
@[simp] theorem State.setOperand_halt (s : State) (u : Word) : (s.setOperand u).halt = s.halt := rfl
@[simp] theorem State.setOperand_ram (s : State) (u : Word) : (s.setOperand u).ram = s.ram := rfl
@[simp] theorem State.setOperand_stdIn (s : State) (u : Word) : (s.setOperand u).stdIn = s.stdIn := rfl
@[simp] theorem State.setOperand_inCur (s : State) (u : Word) : (s.setOperand u).inCur = s.inCur := rfl
@[simp] theorem State.setOperand_stdOut (s : State) (u : Word) : (s.setOperand u).stdOut = s.stdOut := rfl
@[simp] theorem State.setOperand_outCur (s : State) (u : Word) : (s.setOperand u).outCur = s.outCur := rfl
@[simp] theorem State.setOperand_status (s : State) (u : Word) : (s.setOperand u).status = s.status := rfl

/-! ### advanceIn -/

@[simp] theorem State.advanceIn_a (s : State) : (s.advanceIn).a = s.a := rfl
@[simp] theorem State.advanceIn_x (s : State) : (s.advanceIn).x = s.x := rfl
@[simp] theorem State.advanceIn_pc (s : State) : (s.advanceIn).pc = s.pc := rfl
@[simp] theorem State.advanceIn_sp (s : State) : (s.advanceIn).sp = s.sp := rfl
@[simp] theorem State.advanceIn_n (s : State) : (s.advanceIn).n = s.n := rfl
@[simp] theorem State.advanceIn_z (s : State) : (s.advanceIn).z = s.z := rfl
@[simp] theorem State.advanceIn_v (s : State) : (s.advanceIn).v = s.v := rfl
@[simp] theorem State.advanceIn_c (s : State) : (s.advanceIn).c = s.c := rfl
@[simp] theorem State.advanceIn_opCode (s : State) : (s.advanceIn).opCode = s.opCode := rfl
@[simp] theorem State.advanceIn_operand (s : State) : (s.advanceIn).operand = s.operand := rfl
@[simp] theorem State.advanceIn_halt (s : State) : (s.advanceIn).halt = s.halt := rfl
@[simp] theorem State.advanceIn_ram (s : State) : (s.advanceIn).ram = s.ram := rfl
@[simp] theorem State.advanceIn_stdIn (s : State) : (s.advanceIn).stdIn = s.stdIn := rfl
@[simp] theorem State.advanceIn_inCur (s : State) : (s.advanceIn).inCur = s.inCur + 1 := rfl
@[simp] theorem State.advanceIn_stdOut (s : State) : (s.advanceIn).stdOut = s.stdOut := rfl
@[simp] theorem State.advanceIn_outCur (s : State) : (s.advanceIn).outCur = s.outCur := rfl
@[simp] theorem State.advanceIn_status (s : State) : (s.advanceIn).status = s.status := rfl

/-! ### storeRam -/

@[simp] theorem State.storeRam_a (s : State) (i : Word) (b : Byte) : (s.storeRam i b).a = s.a := rfl
@[simp] theorem State.storeRam_x (s : State) (i : Word) (b : Byte) : (s.storeRam i b).x = s.x := rfl
@[simp] theorem State.storeRam_pc (s : State) (i : Word) (b : Byte) : (s.storeRam i b).pc = s.pc := rfl
@[simp] theorem State.storeRam_sp (s : State) (i : Word) (b : Byte) : (s.storeRam i b).sp = s.sp := rfl
@[simp] theorem State.storeRam_n (s : State) (i : Word) (b : Byte) : (s.storeRam i b).n = s.n := rfl
@[simp] theorem State.storeRam_z (s : State) (i : Word) (b : Byte) : (s.storeRam i b).z = s.z := rfl
@[simp] theorem State.storeRam_v (s : State) (i : Word) (b : Byte) : (s.storeRam i b).v = s.v := rfl
@[simp] theorem State.storeRam_c (s : State) (i : Word) (b : Byte) : (s.storeRam i b).c = s.c := rfl
@[simp] theorem State.storeRam_opCode (s : State) (i : Word) (b : Byte) : (s.storeRam i b).opCode = s.opCode := rfl
@[simp] theorem State.storeRam_operand (s : State) (i : Word) (b : Byte) : (s.storeRam i b).operand = s.operand := rfl
@[simp] theorem State.storeRam_halt (s : State) (i : Word) (b : Byte) : (s.storeRam i b).halt = s.halt := rfl
@[simp] theorem State.storeRam_ram (s : State) (i : Word) (b : Byte) : (s.storeRam i b).ram = s.ram.write i.toNat b := rfl
@[simp] theorem State.storeRam_stdIn (s : State) (i : Word) (b : Byte) : (s.storeRam i b).stdIn = s.stdIn := rfl
@[simp] theorem State.storeRam_inCur (s : State) (i : Word) (b : Byte) : (s.storeRam i b).inCur = s.inCur := rfl
@[simp] theorem State.storeRam_stdOut (s : State) (i : Word) (b : Byte) : (s.storeRam i b).stdOut = s.stdOut := rfl
@[simp] theorem State.storeRam_outCur (s : State) (i : Word) (b : Byte) : (s.storeRam i b).outCur = s.outCur := rfl
@[simp] theorem State.storeRam_status (s : State) (i : Word) (b : Byte) : (s.storeRam i b).status = s.status := rfl

/-! ### emit -/

@[simp] theorem State.emit_a (s : State) (b : Byte) : (s.emit b).a = s.a := rfl
@[simp] theorem State.emit_x (s : State) (b : Byte) : (s.emit b).x = s.x := rfl
@[simp] theorem State.emit_pc (s : State) (b : Byte) : (s.emit b).pc = s.pc := rfl
@[simp] theorem State.emit_sp (s : State) (b : Byte) : (s.emit b).sp = s.sp := rfl
@[simp] theorem State.emit_n (s : State) (b : Byte) : (s.emit b).n = s.n := rfl
@[simp] theorem State.emit_z (s : State) (b : Byte) : (s.emit b).z = s.z := rfl
@[simp] theorem State.emit_v (s : State) (b : Byte) : (s.emit b).v = s.v := rfl
@[simp] theorem State.emit_c (s : State) (b : Byte) : (s.emit b).c = s.c := rfl
@[simp] theorem State.emit_opCode (s : State) (b : Byte) : (s.emit b).opCode = s.opCode := rfl
@[simp] theorem State.emit_operand (s : State) (b : Byte) : (s.emit b).operand = s.operand := rfl
@[simp] theorem State.emit_halt (s : State) (b : Byte) : (s.emit b).halt = s.halt := rfl
@[simp] theorem State.emit_ram (s : State) (b : Byte) : (s.emit b).ram = s.ram := rfl
@[simp] theorem State.emit_stdIn (s : State) (b : Byte) : (s.emit b).stdIn = s.stdIn := rfl
@[simp] theorem State.emit_inCur (s : State) (b : Byte) : (s.emit b).inCur = s.inCur := rfl
@[simp] theorem State.emit_stdOut (s : State) (b : Byte) : (s.emit b).stdOut = s.stdOut.write s.outCur.toNat b := rfl
@[simp] theorem State.emit_outCur (s : State) (b : Byte) : (s.emit b).outCur = s.outCur + 1 := rfl
@[simp] theorem State.emit_status (s : State) (b : Byte) : (s.emit b).status = s.status := rfl

/-! ### testLoop -/

@[simp] theorem State.testLoop_a (s : State) : (s.testLoop).a = s.a := rfl
@[simp] theorem State.testLoop_x (s : State) : (s.testLoop).x = s.x := rfl
@[simp] theorem State.testLoop_pc (s : State) : (s.testLoop).pc = s.pc := rfl
@[simp] theorem State.testLoop_sp (s : State) : (s.testLoop).sp = s.sp := rfl
@[simp] theorem State.testLoop_n (s : State) : (s.testLoop).n = s.n := rfl
@[simp] theorem State.testLoop_z (s : State) : (s.testLoop).z = s.z := rfl
@[simp] theorem State.testLoop_v (s : State) : (s.testLoop).v = s.v := rfl
@[simp] theorem State.testLoop_c (s : State) : (s.testLoop).c = s.c := rfl
@[simp] theorem State.testLoop_opCode (s : State) : (s.testLoop).opCode = s.opCode := rfl
@[simp] theorem State.testLoop_operand (s : State) : (s.testLoop).operand = s.operand := rfl
@[simp] theorem State.testLoop_halt (s : State) : (s.testLoop).halt = s.halt := rfl
@[simp] theorem State.testLoop_ram (s : State) : (s.testLoop).ram = s.ram := rfl
@[simp] theorem State.testLoop_stdIn (s : State) : (s.testLoop).stdIn = s.stdIn := rfl
@[simp] theorem State.testLoop_inCur (s : State) : (s.testLoop).inCur = s.inCur := rfl
@[simp] theorem State.testLoop_stdOut (s : State) : (s.testLoop).stdOut = s.stdOut := rfl
@[simp] theorem State.testLoop_outCur (s : State) : (s.testLoop).outCur = s.outCur := rfl
@[simp] theorem State.testLoop_status (s : State) : (s.testLoop).status = if s.continues then .continuing else .halted := rfl

/-! ### setReg and getReg -/

@[simp] theorem State.setReg_a_a (s : State) (u : Word) : (s.setReg .a u).a = u := rfl
@[simp] theorem State.setReg_x_a (s : State) (u : Word) : (s.setReg .x u).a = s.a := rfl
@[simp] theorem State.setReg_sp_a (s : State) (u : Word) : (s.setReg .sp u).a = s.a := rfl
@[simp] theorem State.setReg_a_x (s : State) (u : Word) : (s.setReg .a u).x = s.x := rfl
@[simp] theorem State.setReg_x_x (s : State) (u : Word) : (s.setReg .x u).x = u := rfl
@[simp] theorem State.setReg_sp_x (s : State) (u : Word) : (s.setReg .sp u).x = s.x := rfl
@[simp] theorem State.setReg_pc (s : State) (r : Reg) (u : Word) : (s.setReg r u).pc = s.pc := by
  cases r <;> rfl
@[simp] theorem State.setReg_a_sp (s : State) (u : Word) : (s.setReg .a u).sp = s.sp := rfl
@[simp] theorem State.setReg_x_sp (s : State) (u : Word) : (s.setReg .x u).sp = s.sp := rfl
@[simp] theorem State.setReg_sp_sp (s : State) (u : Word) : (s.setReg .sp u).sp = u := rfl
@[simp] theorem State.setReg_n (s : State) (r : Reg) (u : Word) : (s.setReg r u).n = s.n := by
  cases r <;> rfl
@[simp] theorem State.setReg_z (s : State) (r : Reg) (u : Word) : (s.setReg r u).z = s.z := by
  cases r <;> rfl
@[simp] theorem State.setReg_v (s : State) (r : Reg) (u : Word) : (s.setReg r u).v = s.v := by
  cases r <;> rfl
@[simp] theorem State.setReg_c (s : State) (r : Reg) (u : Word) : (s.setReg r u).c = s.c := by
  cases r <;> rfl
@[simp] theorem State.setReg_opCode (s : State) (r : Reg) (u : Word) : (s.setReg r u).opCode = s.opCode := by
  cases r <;> rfl
@[simp] theorem State.setReg_operand (s : State) (r : Reg) (u : Word) : (s.setReg r u).operand = s.operand := by
  cases r <;> rfl
@[simp] theorem State.setReg_halt (s : State) (r : Reg) (u : Word) : (s.setReg r u).halt = s.halt := by
  cases r <;> rfl
@[simp] theorem State.setReg_ram (s : State) (r : Reg) (u : Word) : (s.setReg r u).ram = s.ram := by
  cases r <;> rfl
@[simp] theorem State.setReg_stdIn (s : State) (r : Reg) (u : Word) : (s.setReg r u).stdIn = s.stdIn := by
  cases r <;> rfl
@[simp] theorem State.setReg_inCur (s : State) (r : Reg) (u : Word) : (s.setReg r u).inCur = s.inCur := by
  cases r <;> rfl
@[simp] theorem State.setReg_stdOut (s : State) (r : Reg) (u : Word) : (s.setReg r u).stdOut = s.stdOut := by
  cases r <;> rfl
@[simp] theorem State.setReg_outCur (s : State) (r : Reg) (u : Word) : (s.setReg r u).outCur = s.outCur := by
  cases r <;> rfl
@[simp] theorem State.setReg_status (s : State) (r : Reg) (u : Word) : (s.setReg r u).status = s.status := by
  cases r <;> rfl

@[simp] theorem State.getReg_a (s : State) : s.getReg .a = s.a := rfl
@[simp] theorem State.getReg_x (s : State) : s.getReg .x = s.x := rfl
@[simp] theorem State.getReg_sp (s : State) : s.getReg .sp = s.sp := rfl

@[simp] theorem State.getReg_setReg_same (s : State) (r : Reg) (u : Word) :
    (s.setReg r u).getReg r = u := by
  cases r <;> rfl

theorem State.getReg_setReg_other (s : State) {r q : Reg} (u : Word) (h : q ≠ r) :
    (s.setReg r u).getReg q = s.getReg q := by
  cases r <;> cases q <;> first | rfl | exact absurd rfl h

@[simp] theorem State.setPc_getReg (s : State) (u : Word) (r : Reg) :
    (s.setPc u).getReg r = s.getReg r := by
  cases r <;> rfl
@[simp] theorem State.setNZ_getReg (s : State) (u : Word) (r : Reg) :
    (s.setNZ u).getReg r = s.getReg r := by
  cases r <;> rfl
@[simp] theorem State.setV_getReg (s : State) (b : Bool) (r : Reg) :
    (s.setV b).getReg r = s.getReg r := by
  cases r <;> rfl
@[simp] theorem State.setC_getReg (s : State) (b : Bool) (r : Reg) :
    (s.setC b).getReg r = s.getReg r := by
  cases r <;> rfl
@[simp] theorem State.advanceIn_getReg (s : State) (r : Reg) :
    (s.advanceIn).getReg r = s.getReg r := by
  cases r <;> rfl
@[simp] theorem State.storeRam_getReg (s : State) (i : Word) (b : Byte) (r : Reg) :
    (s.storeRam i b).getReg r = s.getReg r := by
  cases r <;> rfl
@[simp] theorem State.emit_getReg (s : State) (b : Byte) (r : Reg) :
    (s.emit b).getReg r = s.getReg r := by
  cases r <;> rfl
@[simp] theorem State.setOpCode_getReg (s : State) (u : Byte) (r : Reg) :
    (s.setOpCode u).getReg r = s.getReg r := by
  cases r <;> rfl
@[simp] theorem State.setOperand_getReg (s : State) (u : Word) (r : Reg) :
    (s.setOperand u).getReg r = s.getReg r := by
  cases r <;> rfl

/-- Two states with equal fields are equal. -/
theorem State.ext_fields {s t : State} (ha : s.a = t.a) (hx : s.x = t.x) (hpc : s.pc = t.pc)
    (hsp : s.sp = t.sp) (hn : s.n = t.n) (hz : s.z = t.z) (hv : s.v = t.v) (hc : s.c = t.c)
    (hop : s.opCode = t.opCode) (hw : s.operand = t.operand) (hh : s.halt = t.halt)
    (hr : s.ram = t.ram) (hi : s.stdIn = t.stdIn) (hic : s.inCur = t.inCur)
    (ho : s.stdOut = t.stdOut) (hoc : s.outCur = t.outCur) (hst : s.status = t.status) : s = t := by
  cases s; cases t; simp_all

end Sys2Proof.Machine
end

