-- ==== Sys2Proof/Laws/Ops.lean ====
section
/-!
SUPPORT. What each named operation of Machine/Ops.lean and Machine/Operands.lean can do: the accesses
through the two ports and past them, the fields each operation leaves alone, the bytes a write leaves
alone, and that every operation keeps the canonical form of the stores.
-/

namespace Sys2Proof.Machine

/-! ### Byte order (R59) -/

@[simp] theorem highByte_wordOfBytes (hi lo : Byte) : highByte (wordOfBytes hi lo) = hi := by
  apply BitVec.eq_of_getLsbD_eq
  intro i h
  simp [highByte, wordOfBytes, h, show 8 + i < 16 by omega]

@[simp] theorem lowByte_wordOfBytes (hi lo : Byte) : lowByte (wordOfBytes hi lo) = lo := by
  apply BitVec.eq_of_getLsbD_eq
  intro i h
  simp [lowByte, wordOfBytes, h, show i < 16 by omega]

@[simp] theorem wordOfBytes_bytes (v : Word) : wordOfBytes (highByte v) (lowByte v) = v := by
  apply BitVec.eq_of_getLsbD_eq
  intro i h
  simp only [wordOfBytes, highByte, lowByte]
  by_cases h8 : i < 8
  · simp [h, h8]
  · simp [h, h8, show 8 + (i - 8) = i by omega, show i - 8 < 8 by omega]

/-! ### Reads -/

/-- A read of the input port takes the byte at the cursor and advances it (R55). -/
@[simp] theorem readByte_inPort (s : State) :
    readByte s inPort = (s.stdIn.read s.inCur.toNat, s.advanceIn) := if_pos rfl

/-- A read of any other address reads Ram and changes nothing (R55, R69). -/
theorem readByte_of_ne {s : State} {a : Word} (h : a ≠ inPort) :
    readByte s a = (s.ram.read a.toNat, s) := if_neg h

theorem readByte_cases (s : State) (a : Word) :
    (readByte s a).2 = s.advanceIn ∨ (readByte s a).2 = s := by
  by_cases h : a = inPort
  · subst h; exact .inl rfl
  · exact .inr (by rw [readByte_of_ne h])

/-- A word read clear of the input port: two bytes of Ram, the high one first (R57). -/
theorem readWord_of_ne {s : State} {a : Word} (h : a ≠ inPort) (h' : a + 1 ≠ inPort) :
    readWord s a = (wordOfBytes (s.ram.read a.toNat) (s.ram.read (a + 1).toNat), s) := by
  simp only [readWord, readByte_of_ne h, readByte_of_ne h']

@[simp] theorem readByte_a (s : State) (a : Word) : (readByte s a).2.a = s.a := by
  unfold readByte; split <;> rfl
@[simp] theorem readByte_x (s : State) (a : Word) : (readByte s a).2.x = s.x := by
  unfold readByte; split <;> rfl
@[simp] theorem readByte_pc (s : State) (a : Word) : (readByte s a).2.pc = s.pc := by
  unfold readByte; split <;> rfl
@[simp] theorem readByte_sp (s : State) (a : Word) : (readByte s a).2.sp = s.sp := by
  unfold readByte; split <;> rfl
@[simp] theorem readByte_n (s : State) (a : Word) : (readByte s a).2.n = s.n := by
  unfold readByte; split <;> rfl
@[simp] theorem readByte_z (s : State) (a : Word) : (readByte s a).2.z = s.z := by
  unfold readByte; split <;> rfl
@[simp] theorem readByte_v (s : State) (a : Word) : (readByte s a).2.v = s.v := by
  unfold readByte; split <;> rfl
@[simp] theorem readByte_c (s : State) (a : Word) : (readByte s a).2.c = s.c := by
  unfold readByte; split <;> rfl
@[simp] theorem readByte_opCode (s : State) (a : Word) : (readByte s a).2.opCode = s.opCode := by
  unfold readByte; split <;> rfl
@[simp] theorem readByte_operand (s : State) (a : Word) : (readByte s a).2.operand = s.operand := by
  unfold readByte; split <;> rfl
@[simp] theorem readByte_halt (s : State) (a : Word) : (readByte s a).2.halt = s.halt := by
  unfold readByte; split <;> rfl
@[simp] theorem readByte_ram (s : State) (a : Word) : (readByte s a).2.ram = s.ram := by
  unfold readByte; split <;> rfl
@[simp] theorem readByte_stdIn (s : State) (a : Word) : (readByte s a).2.stdIn = s.stdIn := by
  unfold readByte; split <;> rfl
@[simp] theorem readByte_stdOut (s : State) (a : Word) : (readByte s a).2.stdOut = s.stdOut := by
  unfold readByte; split <;> rfl
@[simp] theorem readByte_outCur (s : State) (a : Word) : (readByte s a).2.outCur = s.outCur := by
  unfold readByte; split <;> rfl
@[simp] theorem readByte_status (s : State) (a : Word) : (readByte s a).2.status = s.status := by
  unfold readByte; split <;> rfl

@[simp] theorem readWord_a (s : State) (a : Word) : (readWord s a).2.a = s.a := by
  simp [readWord]
@[simp] theorem readWord_x (s : State) (a : Word) : (readWord s a).2.x = s.x := by
  simp [readWord]
@[simp] theorem readWord_pc (s : State) (a : Word) : (readWord s a).2.pc = s.pc := by
  simp [readWord]
@[simp] theorem readWord_sp (s : State) (a : Word) : (readWord s a).2.sp = s.sp := by
  simp [readWord]
@[simp] theorem readWord_n (s : State) (a : Word) : (readWord s a).2.n = s.n := by
  simp [readWord]
@[simp] theorem readWord_z (s : State) (a : Word) : (readWord s a).2.z = s.z := by
  simp [readWord]
@[simp] theorem readWord_v (s : State) (a : Word) : (readWord s a).2.v = s.v := by
  simp [readWord]
@[simp] theorem readWord_c (s : State) (a : Word) : (readWord s a).2.c = s.c := by
  simp [readWord]
@[simp] theorem readWord_opCode (s : State) (a : Word) : (readWord s a).2.opCode = s.opCode := by
  simp [readWord]
@[simp] theorem readWord_operand (s : State) (a : Word) : (readWord s a).2.operand = s.operand := by
  simp [readWord]
@[simp] theorem readWord_halt (s : State) (a : Word) : (readWord s a).2.halt = s.halt := by
  simp [readWord]
@[simp] theorem readWord_ram (s : State) (a : Word) : (readWord s a).2.ram = s.ram := by
  simp [readWord]
@[simp] theorem readWord_stdIn (s : State) (a : Word) : (readWord s a).2.stdIn = s.stdIn := by
  simp [readWord]
@[simp] theorem readWord_stdOut (s : State) (a : Word) : (readWord s a).2.stdOut = s.stdOut := by
  simp [readWord]
@[simp] theorem readWord_outCur (s : State) (a : Word) : (readWord s a).2.outCur = s.outCur := by
  simp [readWord]
@[simp] theorem readWord_status (s : State) (a : Word) : (readWord s a).2.status = s.status := by
  simp [readWord]

/-- A read changes nothing but the input cursor. -/
theorem readByte_state (s : State) (a : Word) :
    (readByte s a).2 = { s with inCur := (readByte s a).2.inCur } := by
  apply State.ext_fields <;> simp

/-- A word read changes nothing but the input cursor. -/
theorem readWord_state (s : State) (a : Word) :
    (readWord s a).2 = { s with inCur := (readWord s a).2.inCur } := by
  apply State.ext_fields <;> simp

/-! ### Writes -/

/-- A write to the output port appends to StdOut (R56). -/
@[simp] theorem writeByte_outPort (s : State) (b : Byte) : writeByte s outPort b = s.emit b := if_pos rfl

/-- A write to any other address writes Ram (R56, R69). -/
theorem writeByte_of_ne {s : State} {a : Word} (b : Byte) (h : a ≠ outPort) :
    writeByte s a b = s.storeRam a b := if_neg h

@[simp] theorem writeByte_a (s : State) (a : Word) (b : Byte) : (writeByte s a b).a = s.a := by
  unfold writeByte; split <;> rfl
@[simp] theorem writeByte_x (s : State) (a : Word) (b : Byte) : (writeByte s a b).x = s.x := by
  unfold writeByte; split <;> rfl
@[simp] theorem writeByte_pc (s : State) (a : Word) (b : Byte) : (writeByte s a b).pc = s.pc := by
  unfold writeByte; split <;> rfl
@[simp] theorem writeByte_sp (s : State) (a : Word) (b : Byte) : (writeByte s a b).sp = s.sp := by
  unfold writeByte; split <;> rfl
@[simp] theorem writeByte_n (s : State) (a : Word) (b : Byte) : (writeByte s a b).n = s.n := by
  unfold writeByte; split <;> rfl
@[simp] theorem writeByte_z (s : State) (a : Word) (b : Byte) : (writeByte s a b).z = s.z := by
  unfold writeByte; split <;> rfl
@[simp] theorem writeByte_v (s : State) (a : Word) (b : Byte) : (writeByte s a b).v = s.v := by
  unfold writeByte; split <;> rfl
@[simp] theorem writeByte_c (s : State) (a : Word) (b : Byte) : (writeByte s a b).c = s.c := by
  unfold writeByte; split <;> rfl
@[simp] theorem writeByte_opCode (s : State) (a : Word) (b : Byte) : (writeByte s a b).opCode = s.opCode := by
  unfold writeByte; split <;> rfl
@[simp] theorem writeByte_operand (s : State) (a : Word) (b : Byte) : (writeByte s a b).operand = s.operand := by
  unfold writeByte; split <;> rfl
@[simp] theorem writeByte_halt (s : State) (a : Word) (b : Byte) : (writeByte s a b).halt = s.halt := by
  unfold writeByte; split <;> rfl
@[simp] theorem writeByte_stdIn (s : State) (a : Word) (b : Byte) : (writeByte s a b).stdIn = s.stdIn := by
  unfold writeByte; split <;> rfl
@[simp] theorem writeByte_inCur (s : State) (a : Word) (b : Byte) : (writeByte s a b).inCur = s.inCur := by
  unfold writeByte; split <;> rfl
@[simp] theorem writeByte_status (s : State) (a : Word) (b : Byte) : (writeByte s a b).status = s.status := by
  unfold writeByte; split <;> rfl

@[simp] theorem writeWord_a (s : State) (a u : Word) : (writeWord s a u).a = s.a := by
  simp [writeWord]
@[simp] theorem writeWord_x (s : State) (a u : Word) : (writeWord s a u).x = s.x := by
  simp [writeWord]
@[simp] theorem writeWord_pc (s : State) (a u : Word) : (writeWord s a u).pc = s.pc := by
  simp [writeWord]
@[simp] theorem writeWord_sp (s : State) (a u : Word) : (writeWord s a u).sp = s.sp := by
  simp [writeWord]
@[simp] theorem writeWord_n (s : State) (a u : Word) : (writeWord s a u).n = s.n := by
  simp [writeWord]
@[simp] theorem writeWord_z (s : State) (a u : Word) : (writeWord s a u).z = s.z := by
  simp [writeWord]
@[simp] theorem writeWord_v (s : State) (a u : Word) : (writeWord s a u).v = s.v := by
  simp [writeWord]
@[simp] theorem writeWord_c (s : State) (a u : Word) : (writeWord s a u).c = s.c := by
  simp [writeWord]
@[simp] theorem writeWord_opCode (s : State) (a u : Word) : (writeWord s a u).opCode = s.opCode := by
  simp [writeWord]
@[simp] theorem writeWord_operand (s : State) (a u : Word) : (writeWord s a u).operand = s.operand := by
  simp [writeWord]
@[simp] theorem writeWord_halt (s : State) (a u : Word) : (writeWord s a u).halt = s.halt := by
  simp [writeWord]
@[simp] theorem writeWord_stdIn (s : State) (a u : Word) : (writeWord s a u).stdIn = s.stdIn := by
  simp [writeWord]
@[simp] theorem writeWord_inCur (s : State) (a u : Word) : (writeWord s a u).inCur = s.inCur := by
  simp [writeWord]
@[simp] theorem writeWord_status (s : State) (a u : Word) : (writeWord s a u).status = s.status := by
  simp [writeWord]

/-- A byte write leaves every other byte of Ram alone. -/
theorem writeByte_read_other (s : State) {a i : Word} (b : Byte) (h : i ≠ a) :
    (writeByte s a b).ram.read i.toNat = s.ram.read i.toNat := by
  unfold writeByte
  split
  · rfl
  · exact Memory.read_write_other _ _ fun hn => h (BitVec.eq_of_toNat_eq hn)

/-- A byte write to the output port leaves all of Ram alone. -/
theorem writeByte_ram_outPort (s : State) (b : Byte) : (writeByte s outPort b).ram = s.ram := by
  rw [writeByte_outPort]; rfl

/-- A byte write past the output port puts the byte into Ram. -/
theorem writeByte_read_same (s : State) {a : Word} (b : Byte) (h : a ≠ outPort) :
    (writeByte s a b).ram.read a.toNat = b := by
  rw [writeByte_of_ne b h]; exact Memory.read_write_same ..

/-- A byte write past the output port leaves StdOut and its cursor alone. -/
theorem writeByte_output (s : State) {a : Word} (b : Byte) (h : a ≠ outPort) :
    (writeByte s a b).stdOut = s.stdOut ∧ (writeByte s a b).outCur = s.outCur := by
  rw [writeByte_of_ne b h]; exact ⟨rfl, rfl⟩

/-- A word write leaves every byte of Ram but its two alone. -/
theorem writeWord_read_other (s : State) {a i : Word} (u : Word) (h : i ≠ a) (h' : i ≠ a + 1) :
    (writeWord s a u).ram.read i.toNat = s.ram.read i.toNat := by
  rw [writeWord, writeByte_read_other _ _ h', writeByte_read_other _ _ h]

/-! ### The canonical form -/

theorem storeRam_wf {s : State} (a : Word) (b : Byte) (h : s.ram.wf ramSize = true) :
    (s.storeRam a b).ram.wf ramSize = true :=
  Memory.wf_write b (Nat.lt_of_lt_of_le a.isLt (by decide)) h

theorem emit_wf {s : State} (b : Byte) (h : s.stdOut.wf bufferSize = true) :
    (s.emit b).stdOut.wf bufferSize = true :=
  Memory.wf_write b (Nat.lt_of_lt_of_le s.outCur.isLt (by decide)) h

theorem writeByte_ram_wf {s : State} (a : Word) (b : Byte) (h : s.ram.wf ramSize = true) :
    (writeByte s a b).ram.wf ramSize = true := by
  unfold writeByte
  split
  · exact h
  · exact storeRam_wf a b h

theorem writeByte_stdOut_wf {s : State} (a : Word) (b : Byte) (h : s.stdOut.wf bufferSize = true) :
    (writeByte s a b).stdOut.wf bufferSize = true := by
  unfold writeByte
  split
  · exact emit_wf b h
  · exact h

theorem writeWord_ram_wf {s : State} (a u : Word) (h : s.ram.wf ramSize = true) :
    (writeWord s a u).ram.wf ramSize = true :=
  writeByte_ram_wf _ _ (writeByte_ram_wf _ _ h)

theorem writeWord_stdOut_wf {s : State} (a u : Word) (h : s.stdOut.wf bufferSize = true) :
    (writeWord s a u).stdOut.wf bufferSize = true :=
  writeByte_stdOut_wf _ _ (writeByte_stdOut_wf _ _ h)

theorem placeByte_wf {s : State} (a : Word) (b : Byte) (h : s.ram.wf ramSize = true)
    (h' : s.stdIn.wf bufferSize = true) :
    (placeByte s a b).ram.wf ramSize = true ∧ (placeByte s a b).stdIn.wf bufferSize = true := by
  unfold placeByte
  split
  · exact ⟨h, Memory.wf_write b (Nat.lt_of_lt_of_le s.inCur.isLt (by decide)) h'⟩
  · exact ⟨storeRam_wf a b h, h'⟩

theorem placeBytes_wf (bs : List Byte) {s : State} (a : Word) (h : s.ram.wf ramSize = true)
    (h' : s.stdIn.wf bufferSize = true) :
    (placeBytes s a bs).ram.wf ramSize = true ∧ (placeBytes s a bs).stdIn.wf bufferSize = true := by
  induction bs generalizing s a with
  | nil => exact ⟨h, h'⟩
  | cons b bs ih => exact ih _ (placeByte_wf a b h h').1 (placeByte_wf a b h h').2

theorem loadProgram_wf {cfg : Config} {bs : List Byte} {s t : State} (hcfg : cfg.maxImage ≤ ramSize)
    (h : s.ram.wf ramSize = true) (ht : loadProgram cfg bs s = .next t) :
    t.ram.wf ramSize = true := by
  unfold loadProgram at ht
  split at ht
  · cases ht; exact Memory.wf_load bs 0 (by omega) h
  · cases ht

theorem fillInput_wf {s : State} (i b : Byte) (h : s.stdIn.wf bufferSize = true) :
    (fillInput i b s).stdIn.wf bufferSize = true :=
  Memory.wf_write b (Nat.lt_of_lt_of_le i.isLt (by decide)) h

/-! ### Fetch -/

@[simp] theorem fetch_a (s : State) : (fetch s).a = s.a := by
  unfold fetch; split <;> simp [fetchOperand, fetchOpcode]
@[simp] theorem fetch_x (s : State) : (fetch s).x = s.x := by
  unfold fetch; split <;> simp [fetchOperand, fetchOpcode]
@[simp] theorem fetch_sp (s : State) : (fetch s).sp = s.sp := by
  unfold fetch; split <;> simp [fetchOperand, fetchOpcode]
@[simp] theorem fetch_n (s : State) : (fetch s).n = s.n := by
  unfold fetch; split <;> simp [fetchOperand, fetchOpcode]
@[simp] theorem fetch_z (s : State) : (fetch s).z = s.z := by
  unfold fetch; split <;> simp [fetchOperand, fetchOpcode]
@[simp] theorem fetch_v (s : State) : (fetch s).v = s.v := by
  unfold fetch; split <;> simp [fetchOperand, fetchOpcode]
@[simp] theorem fetch_c (s : State) : (fetch s).c = s.c := by
  unfold fetch; split <;> simp [fetchOperand, fetchOpcode]
@[simp] theorem fetch_halt (s : State) : (fetch s).halt = s.halt := by
  unfold fetch; split <;> simp [fetchOperand, fetchOpcode]
@[simp] theorem fetch_ram (s : State) : (fetch s).ram = s.ram := by
  unfold fetch; split <;> simp [fetchOperand, fetchOpcode]
@[simp] theorem fetch_stdIn (s : State) : (fetch s).stdIn = s.stdIn := by
  unfold fetch; split <;> simp [fetchOperand, fetchOpcode]
@[simp] theorem fetch_stdOut (s : State) : (fetch s).stdOut = s.stdOut := by
  unfold fetch; split <;> simp [fetchOperand, fetchOpcode]
@[simp] theorem fetch_outCur (s : State) : (fetch s).outCur = s.outCur := by
  unfold fetch; split <;> simp [fetchOperand, fetchOpcode]
@[simp] theorem fetch_status (s : State) : (fetch s).status = s.status := by
  unfold fetch; split <;> simp [fetchOperand, fetchOpcode]

/-- The opcode a fetch latches is the byte read at PC (R101). -/
theorem fetch_opCode (s : State) : (fetch s).opCode = (readByte s s.pc).1 := by
  unfold fetch; split <;> simp [fetchOperand, fetchOpcode]

/-- A fetch moves PC past the instruction: by 1 below 0x12, by 3 from there on (R101). -/
theorem fetch_pc (s : State) :
    (fetch s).pc = s.pc + if requiresOperand (readByte s s.pc).1 then 3 else 1 := by
  cases h : requiresOperand (readByte s s.pc).1
  · simp [fetch, fetchOpcode, h]
  · simp [fetch, fetchOpcode, fetchOperand, h, BitVec.add_assoc]

/-- Below 0x12 a fetch leaves Operand alone (R102). -/
theorem fetch_operand_unary {s : State} (h : requiresOperand (readByte s s.pc).1 = false) :
    (fetch s).operand = s.operand := by
  unfold fetch
  simp [fetchOpcode, h]

/-- A fetch clear of the input port moves no cursor. -/
theorem fetch_of_ne {s : State} (h : s.pc ≠ inPort) (h1 : s.pc + 1 ≠ inPort) (h2 : s.pc + 1 + 1 ≠ inPort) :
    fetch s =
      if requiresOperand (s.ram.read s.pc.toNat) then
        { s with
          opCode := s.ram.read s.pc.toNat
          operand := wordOfBytes (s.ram.read (s.pc + 1).toNat) (s.ram.read (s.pc + 1 + 1).toNat)
          pc := s.pc + 1 + 2 }
      else { s with opCode := s.ram.read s.pc.toNat, pc := s.pc + 1 } := by
  have hw : readWord (fetchOpcode s) (fetchOpcode s).pc =
      (wordOfBytes (s.ram.read (s.pc + 1).toNat) (s.ram.read (s.pc + 1 + 1).toNat), fetchOpcode s) := by
    simp only [fetchOpcode, readByte_of_ne h]
    exact readWord_of_ne h1 h2
  simp only [fetch, fetchOperand, hw]
  simp only [fetchOpcode, readByte_of_ne h]
  rfl

end Sys2Proof.Machine
end

