-- ==== Sys2Proof/Laws/Operands.lean ====
section
/-!
SUPPORT. What the addressing-mode resolver can do (41_addressing_modes.md): its reads change nothing but
the input cursor, and the load path writes N and Z besides.
-/

namespace Sys2Proof.Machine

/-- Immediate mode alone has no effective address (R130). -/
@[simp] theorem effectiveAddress_eq_none (m : Mode) (w : Word) (s : State) :
    effectiveAddress m w s = none ↔ m = .immediate := by
  cases m <;> simp [effectiveAddress]

/-- The pointer read changes nothing but the input cursor. -/
theorem effectiveAddress_state {m : Mode} {w ea : Word} {s t : State}
    (h : effectiveAddress m w s = some (ea, t)) : t = { s with inCur := t.inCur } := by
  cases m <;> simp only [effectiveAddress, Option.some.injEq, Prod.mk.injEq, reduceCtorEq] at h
  all_goals
    first
    | (obtain ⟨-, rfl⟩ := h; rfl)
    | (have h2 := congrArg Prod.snd h; subst h2; exact readWord_state _ _)

/-- A data read changes nothing but the input cursor. -/
theorem readData_state (w : Width) (s : State) (a : Word) :
    (readData w s a).2 = { s with inCur := (readData w s a).2.inCur } := by
  cases w
  · exact readByte_state s a
  · exact readWord_state s a

/-- The reads of the load path change nothing but the input cursor. -/
theorem loadValue_state (cfg : Config) (m : Mode) (w : Width) (u : Word) (s : State) :
    (loadValue cfg m w u s).2 = { s with inCur := (loadValue cfg m w u s).2.inCur } := by
  unfold loadValue
  split
  · rfl
  · next ea s1 h => rw [readData_state, effectiveAddress_state h]

/-- The load path changes the input cursor, and N and Z from the value (R131). -/
theorem resolveLoad_state (cfg : Config) (m : Mode) (w : Width) (u : Word) (s : State) :
    (resolveLoad cfg m w u s).2 =
      { s with
        inCur := (loadValue cfg m w u s).2.inCur
        n := isNegative (loadValue cfg m w u s).1
        z := isZero (loadValue cfg m w u s).1 } := by
  simp only [resolveLoad]
  rw [loadValue_state]
  rfl

@[simp] theorem resolveLoad_value (cfg : Config) (m : Mode) (w : Width) (u : Word) (s : State) :
    (resolveLoad cfg m w u s).1 = (loadValue cfg m w u s).1 := rfl

@[simp] theorem resolveLoad_n (cfg : Config) (m : Mode) (w : Width) (u : Word) (s : State) :
    (resolveLoad cfg m w u s).2.n = isNegative (loadValue cfg m w u s).1 := rfl

@[simp] theorem resolveLoad_z (cfg : Config) (m : Mode) (w : Width) (u : Word) (s : State) :
    (resolveLoad cfg m w u s).2.z = isZero (loadValue cfg m w u s).1 := rfl

@[simp] theorem resolveLoad_getReg (cfg : Config) (m : Mode) (w : Width) (u : Word) (s : State) (r : Reg) :
    (resolveLoad cfg m w u s).2.getReg r = s.getReg r := by
  rw [resolveLoad_state]
  cases r <;> rfl

@[simp] theorem resolveLoad_a (cfg : Config) (m : Mode) (w : Width) (u : Word) (s : State) :
    (resolveLoad cfg m w u s).2.a = s.a := by
  rw [resolveLoad_state]
@[simp] theorem resolveLoad_x (cfg : Config) (m : Mode) (w : Width) (u : Word) (s : State) :
    (resolveLoad cfg m w u s).2.x = s.x := by
  rw [resolveLoad_state]
@[simp] theorem resolveLoad_pc (cfg : Config) (m : Mode) (w : Width) (u : Word) (s : State) :
    (resolveLoad cfg m w u s).2.pc = s.pc := by
  rw [resolveLoad_state]
@[simp] theorem resolveLoad_sp (cfg : Config) (m : Mode) (w : Width) (u : Word) (s : State) :
    (resolveLoad cfg m w u s).2.sp = s.sp := by
  rw [resolveLoad_state]
@[simp] theorem resolveLoad_v (cfg : Config) (m : Mode) (w : Width) (u : Word) (s : State) :
    (resolveLoad cfg m w u s).2.v = s.v := by
  rw [resolveLoad_state]
@[simp] theorem resolveLoad_c (cfg : Config) (m : Mode) (w : Width) (u : Word) (s : State) :
    (resolveLoad cfg m w u s).2.c = s.c := by
  rw [resolveLoad_state]
@[simp] theorem resolveLoad_opCode (cfg : Config) (m : Mode) (w : Width) (u : Word) (s : State) :
    (resolveLoad cfg m w u s).2.opCode = s.opCode := by
  rw [resolveLoad_state]
@[simp] theorem resolveLoad_operand (cfg : Config) (m : Mode) (w : Width) (u : Word) (s : State) :
    (resolveLoad cfg m w u s).2.operand = s.operand := by
  rw [resolveLoad_state]
@[simp] theorem resolveLoad_halt (cfg : Config) (m : Mode) (w : Width) (u : Word) (s : State) :
    (resolveLoad cfg m w u s).2.halt = s.halt := by
  rw [resolveLoad_state]
@[simp] theorem resolveLoad_ram (cfg : Config) (m : Mode) (w : Width) (u : Word) (s : State) :
    (resolveLoad cfg m w u s).2.ram = s.ram := by
  rw [resolveLoad_state]
@[simp] theorem resolveLoad_stdIn (cfg : Config) (m : Mode) (w : Width) (u : Word) (s : State) :
    (resolveLoad cfg m w u s).2.stdIn = s.stdIn := by
  rw [resolveLoad_state]
@[simp] theorem resolveLoad_stdOut (cfg : Config) (m : Mode) (w : Width) (u : Word) (s : State) :
    (resolveLoad cfg m w u s).2.stdOut = s.stdOut := by
  rw [resolveLoad_state]
@[simp] theorem resolveLoad_outCur (cfg : Config) (m : Mode) (w : Width) (u : Word) (s : State) :
    (resolveLoad cfg m w u s).2.outCur = s.outCur := by
  rw [resolveLoad_state]
@[simp] theorem resolveLoad_status (cfg : Config) (m : Mode) (w : Width) (u : Word) (s : State) :
    (resolveLoad cfg m w u s).2.status = s.status := by
  rw [resolveLoad_state]

/-! ### The store path -/

@[simp] theorem writeData_a (w : Width) (s : State) (i u : Word) : (writeData w s i u).a = s.a := by
  cases w <;> simp [writeData]
@[simp] theorem writeData_x (w : Width) (s : State) (i u : Word) : (writeData w s i u).x = s.x := by
  cases w <;> simp [writeData]
@[simp] theorem writeData_pc (w : Width) (s : State) (i u : Word) : (writeData w s i u).pc = s.pc := by
  cases w <;> simp [writeData]
@[simp] theorem writeData_sp (w : Width) (s : State) (i u : Word) : (writeData w s i u).sp = s.sp := by
  cases w <;> simp [writeData]
@[simp] theorem writeData_n (w : Width) (s : State) (i u : Word) : (writeData w s i u).n = s.n := by
  cases w <;> simp [writeData]
@[simp] theorem writeData_z (w : Width) (s : State) (i u : Word) : (writeData w s i u).z = s.z := by
  cases w <;> simp [writeData]
@[simp] theorem writeData_v (w : Width) (s : State) (i u : Word) : (writeData w s i u).v = s.v := by
  cases w <;> simp [writeData]
@[simp] theorem writeData_c (w : Width) (s : State) (i u : Word) : (writeData w s i u).c = s.c := by
  cases w <;> simp [writeData]
@[simp] theorem writeData_opCode (w : Width) (s : State) (i u : Word) : (writeData w s i u).opCode = s.opCode := by
  cases w <;> simp [writeData]
@[simp] theorem writeData_operand (w : Width) (s : State) (i u : Word) : (writeData w s i u).operand = s.operand := by
  cases w <;> simp [writeData]
@[simp] theorem writeData_halt (w : Width) (s : State) (i u : Word) : (writeData w s i u).halt = s.halt := by
  cases w <;> simp [writeData]
@[simp] theorem writeData_stdIn (w : Width) (s : State) (i u : Word) : (writeData w s i u).stdIn = s.stdIn := by
  cases w <;> simp [writeData]
@[simp] theorem writeData_inCur (w : Width) (s : State) (i u : Word) : (writeData w s i u).inCur = s.inCur := by
  cases w <;> simp [writeData]
@[simp] theorem writeData_status (w : Width) (s : State) (i u : Word) : (writeData w s i u).status = s.status := by
  cases w <;> simp [writeData]

theorem writeData_ram_wf {w : Width} {s : State} (i u : Word) (h : s.ram.wf ramSize = true) :
    (writeData w s i u).ram.wf ramSize = true := by
  cases w
  · exact writeByte_ram_wf _ _ h
  · exact writeWord_ram_wf _ _ h

theorem writeData_stdOut_wf {w : Width} {s : State} (i u : Word) (h : s.stdOut.wf bufferSize = true) :
    (writeData w s i u).stdOut.wf bufferSize = true := by
  cases w
  · exact writeByte_stdOut_wf _ _ h
  · exact writeWord_stdOut_wf _ _ h

/-- What a store can do: fault in immediate mode, and elsewhere write the register at the resolved
address (R132, R263, R264). -/
theorem storeReg_cases (r : Reg) (w : Width) (m : Mode) (u : Word) (s : State) :
    (m = .immediate ∧ storeReg r w m u s = .fault (.invalidStoreTarget s.opCode s)) ∨
      ∃ ea s1, effectiveAddress m u s = some (ea, s1) ∧
        storeReg r w m u s = .next (writeData w s1 ea (s.getReg r)) := by
  unfold storeReg resolveStore
  cases h : effectiveAddress m u s with
  | none => exact .inl ⟨(effectiveAddress_eq_none m u s).mp h, rfl⟩
  | some p =>
    refine .inr ⟨p.1, p.2, rfl, ?_⟩
    have hs := effectiveAddress_state h
    have hr : p.2.getReg r = s.getReg r := by rw [hs]; cases r <;> rfl
    simp only [hr]

end Sys2Proof.Machine
end

