-- ==== Sys2Proof/Laws/PerInstr.lean ====
section
/-!
SUPPORT. Per-instruction laws about the instruction as syntax. Family `EncodedLength`: the encoding of
a well-formed instruction is one byte long where its opcode is below 0x12 and three bytes long where it is
not (30_encoding.md R80).
-/

namespace Sys2Proof.Laws.EncodedLength

/-- The length of an instruction's encoding is decided by its opcode (R80). -/
def Statement (i : Instr) : Prop :=
  i.wellFormed = true → (encode i).length = if (opcodeOf i).toNat < 0x12 then 1 else 3

theorem unknownLength {i : Instr} {op : Byte} {w : Word} (hop : opcodeOf i = op)
    (hw : operandOf i = some w) (h : 0x12 ≤ op.toNat) :
    (encode i).length = if (opcodeOf i).toNat < 0x12 then 1 else 3 := by
  rw [encode, hw, hop, if_neg (by omega)]
  rfl

theorem halt : Statement .halt := fun _ => rfl

theorem ret : Statement .ret := fun _ => rfl

theorem ret02 : Statement .ret02 := fun _ => rfl

theorem movspa : Statement .movspa := fun _ => rfl

theorem movflga : Statement .movflga := fun _ => rfl

theorem movaflg : Statement .movaflg := fun _ => rfl

theorem nota : Statement .nota := fun _ => rfl

theorem notx : Statement .notx := fun _ => rfl

theorem nega : Statement .nega := fun _ => rfl

theorem negx : Statement .negx := fun _ => rfl

theorem asla : Statement .asla := fun _ => rfl

theorem aslx : Statement .aslx := fun _ => rfl

theorem asra : Statement .asra := fun _ => rfl

theorem asrx : Statement .asrx := fun _ => rfl

theorem rola : Statement .rola := fun _ => rfl

theorem rolx : Statement .rolx := fun _ => rfl

theorem rora : Statement .rora := fun _ => rfl

theorem rorx : Statement .rorx := fun _ => rfl

theorem br (ix : Index) (w : Word) : Statement (.br ix w) := by
  cases ix <;> exact fun _ => rfl

theorem brle (ix : Index) (w : Word) : Statement (.brle ix w) := by
  cases ix <;> exact fun _ => rfl

theorem brlt (ix : Index) (w : Word) : Statement (.brlt ix w) := by
  cases ix <;> exact fun _ => rfl

theorem breq (ix : Index) (w : Word) : Statement (.breq ix w) := by
  cases ix <;> exact fun _ => rfl

theorem brne (ix : Index) (w : Word) : Statement (.brne ix w) := by
  cases ix <;> exact fun _ => rfl

theorem brge (ix : Index) (w : Word) : Statement (.brge ix w) := by
  cases ix <;> exact fun _ => rfl

theorem brgt (ix : Index) (w : Word) : Statement (.brgt ix w) := by
  cases ix <;> exact fun _ => rfl

theorem brv (ix : Index) (w : Word) : Statement (.brv ix w) := by
  cases ix <;> exact fun _ => rfl

theorem brc (ix : Index) (w : Word) : Statement (.brc ix w) := by
  cases ix <;> exact fun _ => rfl

theorem call (ix : Index) (w : Word) : Statement (.call ix w) := by
  cases ix <;> exact fun _ => rfl

theorem unknown26 (op : Byte) (w : Word) : Statement (.unknown26 op w) := by
  intro h
  simp only [Instr.wellFormed, Bool.and_eq_true, decide_eq_true_eq] at h
  exact unknownLength (op := op) rfl rfl (by omega)

theorem unknown28 (op : Byte) (w : Word) : Statement (.unknown28 op w) := by
  intro h
  simp only [Instr.wellFormed, Bool.and_eq_true, decide_eq_true_eq] at h
  exact unknownLength (op := op) rfl rfl (by omega)

theorem unknown30 (op : Byte) (w : Word) : Statement (.unknown30 op w) := by
  intro h
  simp only [Instr.wellFormed, Bool.and_eq_true, decide_eq_true_eq] at h
  exact unknownLength (op := op) rfl rfl (by omega)

theorem unknown40 (op : Byte) (w : Word) : Statement (.unknown40 op w) := by
  intro h
  simp only [Instr.wellFormed, Bool.and_eq_true, decide_eq_true_eq] at h
  exact unknownLength (op := op) rfl rfl (by omega)

theorem addsp (m : Mode) (w : Word) : Statement (.addsp m w) := by
  cases m <;> exact fun _ => rfl

theorem subsp (m : Mode) (w : Word) : Statement (.subsp m w) := by
  cases m <;> exact fun _ => rfl

theorem adda (m : Mode) (w : Word) : Statement (.adda m w) := by
  cases m <;> exact fun _ => rfl

theorem addx (m : Mode) (w : Word) : Statement (.addx m w) := by
  cases m <;> exact fun _ => rfl

theorem suba (m : Mode) (w : Word) : Statement (.suba m w) := by
  cases m <;> exact fun _ => rfl

theorem subx (m : Mode) (w : Word) : Statement (.subx m w) := by
  cases m <;> exact fun _ => rfl

theorem anda (m : Mode) (w : Word) : Statement (.anda m w) := by
  cases m <;> exact fun _ => rfl

theorem andx (m : Mode) (w : Word) : Statement (.andx m w) := by
  cases m <;> exact fun _ => rfl

theorem ora (m : Mode) (w : Word) : Statement (.ora m w) := by
  cases m <;> exact fun _ => rfl

theorem orx (m : Mode) (w : Word) : Statement (.orx m w) := by
  cases m <;> exact fun _ => rfl

theorem cpwa (m : Mode) (w : Word) : Statement (.cpwa m w) := by
  cases m <;> exact fun _ => rfl

theorem cpwx (m : Mode) (w : Word) : Statement (.cpwx m w) := by
  cases m <;> exact fun _ => rfl

theorem cpba (m : Mode) (w : Word) : Statement (.cpba m w) := by
  cases m <;> exact fun _ => rfl

theorem cpbx (m : Mode) (w : Word) : Statement (.cpbx m w) := by
  cases m <;> exact fun _ => rfl

theorem ldwa (m : Mode) (w : Word) : Statement (.ldwa m w) := by
  cases m <;> exact fun _ => rfl

theorem ldwx (m : Mode) (w : Word) : Statement (.ldwx m w) := by
  cases m <;> exact fun _ => rfl

theorem ldba (m : Mode) (w : Word) : Statement (.ldba m w) := by
  cases m <;> exact fun _ => rfl

theorem ldbx (m : Mode) (w : Word) : Statement (.ldbx m w) := by
  cases m <;> exact fun _ => rfl

theorem stwa (m : Mode) (w : Word) : Statement (.stwa m w) := by
  cases m <;> exact fun _ => rfl

theorem stwx (m : Mode) (w : Word) : Statement (.stwx m w) := by
  cases m <;> exact fun _ => rfl

theorem stba (m : Mode) (w : Word) : Statement (.stba m w) := by
  cases m <;> exact fun _ => rfl

theorem stbx (m : Mode) (w : Word) : Statement (.stbx m w) := by
  cases m <;> exact fun _ => rfl

end Sys2Proof.Laws.EncodedLength
end

