-- ==== Sys2Proof/Laws/Step.lean ====
section
/-!
SUPPORT. What a step can do: once halted it changes nothing, and while the run goes on it is the fetched
instruction, its next state marked by the loop's predicate.
-/

namespace Sys2Proof.Machine

theorem step_halted {s : State} (h : s.status = .halted) : step s = .next s := by
  simp [step, stepOnce, h]

theorem step_continuing {s : State} (h : s.status = .continuing) : step s = settle (cycle s) := by
  simp [step, stepOnce, h]

/-- Every way a step answers a next state. -/
theorem step_next_cases {s t : State} (h : step s = .next t) :
    (s.status = .halted ∧ t = s) ∨
      (s.status = .continuing ∧ ∃ u, exec (fetch s).latched (fetch s) = .next u ∧ t = u.testLoop) := by
  cases hs : s.status with
  | halted =>
    rw [step_halted hs] at h
    cases h
    exact .inl ⟨rfl, rfl⟩
  | continuing =>
    rw [step_continuing hs, cycle] at h
    cases hc : exec (fetch s).latched (fetch s) <;> simp [hc, settle] at h
    exact .inr ⟨rfl, _, rfl, h.symm⟩

/-- The marked state's outcome agrees with the loop's predicate. -/
@[simp] theorem testLoop_continues (s : State) : s.testLoop.continues = s.continues := rfl

theorem testLoop_status (s : State) : s.testLoop.status = .halted ↔ s.testLoop.continues = false := by
  rw [testLoop_continues]
  cases h : s.continues <;> simp [h]

end Sys2Proof.Machine
end

