-- ==== Sys2Proof/Tests/Slice0.lean ====
section
/-!
SUPPORT. Tests of the model. The words of the decoding tests are written out from 30_encoding.md R82 to
R89, and the expected results of the step tests are those of 95_test_vectors.md, whose vector each test
names. The last section shows, for every statement with hypotheses, that something meets them.
-/

namespace Sys2Proof.Tests

open Sys2Proof Sys2Proof.Machine

/-! ### Helpers -/

/-- The next state an outcome gives. -/
def after : Result → Option State
  | .next t => some t
  | .fault _ => none
  | .refused _ => none

/-- The cause code, the opcode and the state of a fault (R303). -/
def faulted : Result → Option (Nat × Byte × State)
  | .next _ => none
  | .fault (.unknownOpcode op s) => some (FatalKind.unknownOpcode.code, op, s)
  | .fault (.invalidStoreTarget op s) => some (FatalKind.invalidStoreTarget.code, op, s)
  | .refused _ => none

/-- The flags N, Z, V and C as the vectors write them, a number with N first. -/
def nzvc (s : State) : Nat := 8 * s.n.toNat + 4 * s.z.toNat + 2 * s.v.toNat + s.c.toNat

/-- `s` with its PC at 0x0100 and an instruction there. -/
def at100 (s : State) (bs : List Byte) : State := placeInstruction { s with pc := 0x0100 } bs

/-- A, X, SP, PC and the flags after one step of an instruction at 0x0100. -/
def regs (s : State) (bs : List Byte) : Option (Word × Word × Word × Word × Nat) :=
  (after (step (at100 s bs))).map fun t => (t.a, t.x, t.sp, t.pc, nzvc t)

/-- Bytes of Ram after one step of an instruction at 0x0100. -/
def ramAfter (s : State) (bs : List Byte) (is : List Nat) : Option (List Byte) :=
  (after (step (at100 s bs))).map fun t => is.map t.ram.read

/-- The state after reset with these registers, flags (as `nzvc` numbers them) and bytes of Ram. -/
def given (a x sp : Word) (f : Nat) (ram : Memory) : State :=
  { State.reset with
    a := a, x := x, sp := sp, ram := ram
    n := f.testBit 3, z := f.testBit 2, v := f.testBit 1, c := f.testBit 0 }

/-- The vectors' memory preset `M0`. -/
def m0 : Memory :=
  [(0x0200, 0xBE), (0x0201, 0xEF), (0x0204, 0x11), (0x0205, 0x22), (0x0300, 0x02), (0xFB91, 0x03),
   (0xFB93, 0x33), (0xFB94, 0x44), (0xFB95, 0x02), (0xFB96, 0x04)]

/-! ### Well-formed instructions: each check of an UNKNOWN row's range refuses -/

theorem test_wf_unknown26 :
    (Instr.unknown26 0x25 0).wellFormed = false ∧ (Instr.unknown26 0x28 0).wellFormed = false ∧
      (Instr.unknown26 0x26 0).wellFormed = true ∧ (Instr.unknown26 0x27 0).wellFormed = true := by
  decide
theorem test_wf_unknown28 :
    (Instr.unknown28 0x27 0).wellFormed = false ∧ (Instr.unknown28 0x30 0).wellFormed = false ∧
      (Instr.unknown28 0x28 0).wellFormed = true ∧ (Instr.unknown28 0x2F 0).wellFormed = true := by
  decide
theorem test_wf_unknown30 :
    (Instr.unknown30 0x2F 0).wellFormed = false ∧ (Instr.unknown30 0x40 0).wellFormed = false ∧
      (Instr.unknown30 0x30 0).wellFormed = true ∧ (Instr.unknown30 0x3F 0).wellFormed = true := by
  decide
theorem test_wf_unknown40 :
    (Instr.unknown40 0x3F 0).wellFormed = false ∧ (Instr.unknown40 0x50 0).wellFormed = false ∧
      (Instr.unknown40 0x40 0).wellFormed = true ∧ (Instr.unknown40 0x4F 0).wellFormed = true := by
  decide

/-! ### Decoding: one written-out word for every constructor -/

/-- R84, R85: the opcode is the whole instruction. -/
theorem test_decode_unary_1 :
    List.map decode
      [[0x00],
       [0x01],
       [0x02],
       [0x03],
       [0x04],
       [0x05],
       [0x06],
       [0x07],
       [0x08]] =
      [.ok (.halt, []),
       .ok (.ret, []),
       .ok (.ret02, []),
       .ok (.movspa, []),
       .ok (.movflga, []),
       .ok (.movaflg, []),
       .ok (.nota, []),
       .ok (.notx, []),
       .ok (.nega, [])] := by
  decide

/-- R85. -/
theorem test_decode_unary_2 :
    List.map decode
      [[0x09],
       [0x0A],
       [0x0B],
       [0x0C],
       [0x0D],
       [0x0E],
       [0x0F],
       [0x10],
       [0x11]] =
      [.ok (.negx, []),
       .ok (.asla, []),
       .ok (.aslx, []),
       .ok (.asra, []),
       .ok (.asrx, []),
       .ok (.rola, []),
       .ok (.rolx, []),
       .ok (.rora, []),
       .ok (.rorx, [])] := by
  decide

/-- R82, R86: `0001 001a` up to `0010 010a`, bit 0 the index bit. -/
theorem test_decode_branch :
    List.map decode
      [[0x12, 0x12, 0x30],
       [0x15, 0x12, 0x31],
       [0x16, 0x12, 0x32],
       [0x19, 0x12, 0x33],
       [0x1A, 0x12, 0x34],
       [0x1D, 0x12, 0x35],
       [0x1E, 0x12, 0x36],
       [0x21, 0x12, 0x37],
       [0x22, 0x12, 0x38],
       [0x25, 0x12, 0x39]] =
      [.ok (.br .plain 0x1230, []),
       .ok (.brle .indexed 0x1231, []),
       .ok (.brlt .plain 0x1232, []),
       .ok (.breq .indexed 0x1233, []),
       .ok (.brne .plain 0x1234, []),
       .ok (.brge .indexed 0x1235, []),
       .ok (.brgt .plain 0x1236, []),
       .ok (.brv .indexed 0x1237, []),
       .ok (.brc .plain 0x1238, []),
       .ok (.call .indexed 0x1239, [])] := by
  decide

/-- R82, R86: the other index bit. -/
theorem test_decode_branch_other_index :
    List.map decode
      [[0x13, 0x12, 0x30],
       [0x14, 0x12, 0x31],
       [0x17, 0x12, 0x32],
       [0x18, 0x12, 0x33],
       [0x1B, 0x12, 0x34],
       [0x1C, 0x12, 0x35],
       [0x1F, 0x12, 0x36],
       [0x20, 0x12, 0x37],
       [0x23, 0x12, 0x38],
       [0x24, 0x12, 0x39]] =
      [.ok (.br .indexed 0x1230, []),
       .ok (.brle .plain 0x1231, []),
       .ok (.brlt .indexed 0x1232, []),
       .ok (.breq .plain 0x1233, []),
       .ok (.brne .indexed 0x1234, []),
       .ok (.brge .plain 0x1235, []),
       .ok (.brgt .indexed 0x1236, []),
       .ok (.brv .plain 0x1237, []),
       .ok (.brc .indexed 0x1238, []),
       .ok (.call .plain 0x1239, [])] := by
  decide

/-- R89, both ends of each range. -/
theorem test_decode_unknown :
    List.map decode
      [[0x26, 0xAB, 0xCD],
       [0x27, 0xAB, 0xCD],
       [0x28, 0xAB, 0xCD],
       [0x2F, 0xAB, 0xCD],
       [0x30, 0xAB, 0xCD],
       [0x3F, 0xAB, 0xCD],
       [0x40, 0xAB, 0xCD],
       [0x4F, 0xAB, 0xCD]] =
      [.ok (.unknown26 0x26 0xABCD, []),
       .ok (.unknown26 0x27 0xABCD, []),
       .ok (.unknown28 0x28 0xABCD, []),
       .ok (.unknown28 0x2F 0xABCD, []),
       .ok (.unknown30 0x30 0xABCD, []),
       .ok (.unknown30 0x3F 0xABCD, []),
       .ok (.unknown40 0x40 0xABCD, []),
       .ok (.unknown40 0x4F 0xABCD, [])] := by
  decide

/-- R82, R87: `0101 0aaa` up to `1001 1aaa`. -/
theorem test_decode_arith :
    List.map decode
      [[0x50, 0x00, 0xF0],
       [0x59, 0x00, 0xF1],
       [0x62, 0x00, 0xF2],
       [0x6B, 0x00, 0xF3],
       [0x74, 0x00, 0xF4],
       [0x7D, 0x00, 0xF5],
       [0x86, 0x00, 0xF6],
       [0x8F, 0x00, 0xF7],
       [0x90, 0x00, 0xF8],
       [0x99, 0x00, 0xF9]] =
      [.ok (.addsp .immediate 0x00F0, []),
       .ok (.subsp .direct 0x00F1, []),
       .ok (.adda .indirect 0x00F2, []),
       .ok (.addx .stackRelative 0x00F3, []),
       .ok (.suba .stackDeferred 0x00F4, []),
       .ok (.subx .indexed 0x00F5, []),
       .ok (.anda .stackIndexed 0x00F6, []),
       .ok (.andx .stackDeferredIndexed 0x00F7, []),
       .ok (.ora .immediate 0x00F8, []),
       .ok (.orx .direct 0x00F9, [])] := by
  decide

/-- R82, R88: `1010 0aaa` up to `1111 1aaa`. -/
theorem test_decode_data :
    List.map decode
      [[0xA3, 0x80, 0x00],
       [0xAC, 0x80, 0x01],
       [0xB5, 0x80, 0x02],
       [0xBE, 0x80, 0x03],
       [0xC7, 0x80, 0x04],
       [0xC8, 0x80, 0x05],
       [0xD1, 0x80, 0x06],
       [0xDA, 0x80, 0x07],
       [0xE3, 0x80, 0x08],
       [0xEC, 0x80, 0x09],
       [0xF5, 0x80, 0x0A],
       [0xFE, 0x80, 0x0B]] =
      [.ok (.cpwa .stackRelative 0x8000, []),
       .ok (.cpwx .stackDeferred 0x8001, []),
       .ok (.cpba .indexed 0x8002, []),
       .ok (.cpbx .stackIndexed 0x8003, []),
       .ok (.ldwa .stackDeferredIndexed 0x8004, []),
       .ok (.ldwx .immediate 0x8005, []),
       .ok (.ldba .direct 0x8006, []),
       .ok (.ldbx .indirect 0x8007, []),
       .ok (.stwa .stackRelative 0x8008, []),
       .ok (.stwx .stackDeferred 0x8009, []),
       .ok (.stba .indexed 0x800A, []),
       .ok (.stbx .stackIndexed 0x800B, [])] := by
  decide

/-- R130: the eight values of `aaa`. -/
theorem test_decode_modes :
    List.map decode
      [[0xC0, 0x00, 0x01],
       [0xC1, 0x00, 0x01],
       [0xC2, 0x00, 0x01],
       [0xC3, 0x00, 0x01],
       [0xC4, 0x00, 0x01],
       [0xC5, 0x00, 0x01],
       [0xC6, 0x00, 0x01],
       [0xC7, 0x00, 0x01]] =
      [.ok (.ldwa .immediate 0x0001, []),
       .ok (.ldwa .direct 0x0001, []),
       .ok (.ldwa .indirect 0x0001, []),
       .ok (.ldwa .stackRelative 0x0001, []),
       .ok (.ldwa .stackDeferred 0x0001, []),
       .ok (.ldwa .indexed 0x0001, []),
       .ok (.ldwa .stackIndexed 0x0001, []),
       .ok (.ldwa .stackDeferredIndexed 0x0001, [])] := by
  decide

/-- R80, R83: bytes after an instruction are left over, and a list too short for its opcode is refused. -/
theorem test_decode_lengths :
    decode [0x11, 0x12] = .ok (.rorx, [0x12]) ∧
    decode [0x12, 0xAB, 0xCD, 0x00] = .ok (.br .plain 0xABCD, [0x00]) ∧
    decode [0x12, 0xAB] = .error (.operandMissing 0x12) ∧ decode [] = .error .noOpcode := by
  decide

/-- R81, R83: the encoder writes the opcode and then the operand, high byte first. -/
theorem test_encode :
    encode .rorx = [0x11] ∧ encode (.call .indexed 0xABCD) = [0x25, 0xAB, 0xCD] ∧
    encode (.stbx .stackDeferredIndexed 0xFC16) = [0xFF, 0xFC, 0x16] := by
  decide

/-- A word numbered as the opcode table numbers it, and the first step after reset on it. -/
theorem test_table_word :
    decodeTableWord 8 0x11 = some .rorx ∧ decodeTableWord 8 0xC0 = some (.ldwa .immediate 0) ∧
    decodeTableWord 24 0xCDAB12 = some (.br .plain 0xABCD) ∧
    (after (step (State.reset.withFetchWord 8 0x03))).map State.a = some 0xFB8F := by
  decide

/-! ### One step of each instruction -/

/-- R170: HALT only moves PC past itself. -/
theorem test_halt :
    regs (given 0x0005 0x0000 0xFB8F 9 []) [0x00] =
      some (0x0005, 0x0000, 0xFB8F, 0x0101, 9) := by
  decide

/-- V12.6, V12.8. -/
theorem test_ret :
    [regs (given 0x0000 0x0000 0xFB8D 0 [(0xFB8E, 0x03)]) [0x01],
     regs (given 0x0000 0x0000 0xFFFF 0 [(0x0000, 0x34), (0xFFFF, 0x12)]) [0x01]] =
    [some (0x0000, 0x0000, 0xFB8F, 0x0003, 0),
     some (0x0000, 0x0000, 0x0001, 0x1234, 0)] := by
  decide

/-- V12.7, V12.9. -/
theorem test_ret02 :
    [regs (given 0x0000 0x0000 0xFB8D 0 [(0xFB8E, 0x03)]) [0x02],
     regs (given 0x0000 0x0000 0xFFFE 0 [(0xFFFE, 0xAB), (0xFFFF, 0xCD)]) [0x02]] =
    [some (0x0000, 0x0000, 0xFB8F, 0x0003, 0),
     some (0x0000, 0x0000, 0x0000, 0xABCD, 0)] := by
  decide

/-- V8.1. -/
theorem test_movspa :
    regs (given 0x0000 0x0000 0xFB8F 0 []) [0x03] =
      some (0xFB8F, 0x0000, 0xFB8F, 0x0101, 0) := by
  decide

/-- V8.2, V8.4. -/
theorem test_movflga :
    [regs (given 0x1234 0x0000 0xFB8F 11 []) [0x04],
     regs (given 0xABCD 0x0000 0xFB8F 15 []) [0x04]] =
    [some (0x000B, 0x0000, 0xFB8F, 0x0101, 11),
     some (0x000F, 0x0000, 0xFB8F, 0x0101, 15)] := by
  decide

/-- V8.5, V8.6, V8.7. -/
theorem test_movaflg_1 :
    [regs (given 0x0001 0x0000 0xFB8F 0 []) [0x05],
     regs (given 0x0002 0x0000 0xFB8F 0 []) [0x05],
     regs (given 0x0004 0x0000 0xFB8F 0 []) [0x05]] =
    [some (0x0001, 0x0000, 0xFB8F, 0x0101, 15),
     some (0x0002, 0x0000, 0xFB8F, 0x0101, 14),
     some (0x0004, 0x0000, 0xFB8F, 0x0101, 12)] := by
  decide

/-- V8.8, V8.10. -/
theorem test_movaflg_2 :
    [regs (given 0x0008 0x0000 0xFB8F 0 []) [0x05],
     regs (given 0xFFF0 0x0000 0xFB8F 15 []) [0x05]] =
    [some (0x0008, 0x0000, 0xFB8F, 0x0101, 8),
     some (0xFFF0, 0x0000, 0xFB8F, 0x0101, 0)] := by
  decide

/-- V8.11, V8.12. -/
theorem test_nota :
    [regs (given 0x0000 0x0000 0xFB8F 0 []) [0x06],
     regs (given 0xFFFF 0x0000 0xFB8F 0 []) [0x06]] =
    [some (0xFFFF, 0x0000, 0xFB8F, 0x0101, 8),
     some (0x0000, 0x0000, 0xFB8F, 0x0101, 4)] := by
  decide

/-- V8.13. -/
theorem test_notx :
    regs (given 0x0000 0x00FF 0xFB8F 0 []) [0x07] =
      some (0x0000, 0xFF00, 0xFB8F, 0x0101, 8) := by
  decide

/-- V8.14 to V8.16. -/
theorem test_nega :
    [regs (given 0x0000 0x0000 0xFB8F 0 []) [0x08],
     regs (given 0x0001 0x0000 0xFB8F 0 []) [0x08],
     regs (given 0x8000 0x0000 0xFB8F 0 []) [0x08]] =
    [some (0x0000, 0x0000, 0xFB8F, 0x0101, 4),
     some (0xFFFF, 0x0000, 0xFB8F, 0x0101, 10),
     some (0x8000, 0x0000, 0xFB8F, 0x0101, 8)] := by
  decide

/-- V8.18, V8.19. -/
theorem test_negx :
    [regs (given 0x0000 0xFFFF 0xFB8F 0 []) [0x09],
     regs (given 0x0000 0x7FFF 0xFB8F 0 []) [0x09]] =
    [some (0x0000, 0x0001, 0xFB8F, 0x0101, 2),
     some (0x0000, 0x8001, 0xFB8F, 0x0101, 10)] := by
  decide

/-- V8.21 to V8.23. -/
theorem test_asla :
    [regs (given 0x4000 0x0000 0xFB8F 0 []) [0x0A],
     regs (given 0x8000 0x0000 0xFB8F 0 []) [0x0A],
     regs (given 0xC000 0x0000 0xFB8F 0 []) [0x0A]] =
    [some (0x8000, 0x0000, 0xFB8F, 0x0101, 10),
     some (0x0000, 0x0000, 0xFB8F, 0x0101, 7),
     some (0x8000, 0x0000, 0xFB8F, 0x0101, 9)] := by
  decide

/-- V8.24. -/
theorem test_aslx :
    regs (given 0x0000 0x7FFF 0xFB8F 0 []) [0x0B] =
      some (0x0000, 0xFFFE, 0xFB8F, 0x0101, 10) := by
  decide

/-- V8.25, V8.26. -/
theorem test_asra :
    [regs (given 0x0001 0x0000 0xFB8F 0 []) [0x0C],
     regs (given 0x8001 0x0000 0xFB8F 0 []) [0x0C]] =
    [some (0x0000, 0x0000, 0xFB8F, 0x0101, 5),
     some (0xC000, 0x0000, 0xFB8F, 0x0101, 9)] := by
  decide

/-- V8.28. -/
theorem test_asrx :
    regs (given 0x0000 0x0004 0xFB8F 1 []) [0x0D] =
      some (0x0000, 0x0002, 0xFB8F, 0x0101, 0) := by
  decide

/-- V8.29, V8.30. -/
theorem test_rola :
    [regs (given 0x8000 0x0000 0xFB8F 0 []) [0x0E],
     regs (given 0x0000 0x0000 0xFB8F 1 []) [0x0E]] =
    [some (0x0000, 0x0000, 0xFB8F, 0x0101, 7),
     some (0x0001, 0x0000, 0xFB8F, 0x0101, 0)] := by
  decide

/-- V8.32. -/
theorem test_rolx :
    regs (given 0x0000 0xFFFF 0xFB8F 0 []) [0x0F] =
      some (0x0000, 0xFFFE, 0xFB8F, 0x0101, 9) := by
  decide

/-- V8.33, V8.34. -/
theorem test_rora :
    [regs (given 0x0001 0x0000 0xFB8F 0 []) [0x10],
     regs (given 0x0000 0x0000 0xFB8F 1 []) [0x10]] =
    [some (0x0000, 0x0000, 0xFB8F, 0x0101, 5),
     some (0x8000, 0x0000, 0xFB8F, 0x0101, 10)] := by
  decide

/-- V8.35, V8.36. -/
theorem test_rorx :
    [regs (given 0x0000 0x0002 0xFB8F 1 []) [0x11],
     regs (given 0x0000 0x8000 0xFB8F 0 []) [0x11]] =
    [some (0x0000, 0x8001, 0xFB8F, 0x0101, 10),
     some (0x0000, 0x4000, 0xFB8F, 0x0101, 2)] := by
  decide

/-- V11.1, V11.10. -/
theorem test_br :
    [regs (given 0x0000 0x0000 0xFB8F 0 []) [0x12, 0x02, 0x00],
     regs (given 0x0000 0x0010 0xFB8F 0 []) [0x13, 0x02, 0x00]] =
    [some (0x0000, 0x0000, 0xFB8F, 0x0200, 0),
     some (0x0000, 0x0010, 0xFB8F, 0x0210, 0)] := by
  decide

/-- V11.2. -/
theorem test_brle :
    [regs (given 0x0000 0x0000 0xFB8F 8 []) [0x14, 0x02, 0x00],
     regs (given 0x0000 0x0000 0xFB8F 4 []) [0x14, 0x02, 0x00],
     regs (given 0x0000 0x0000 0xFB8F 12 []) [0x14, 0x02, 0x00],
     regs (given 0x0000 0x0000 0xFB8F 3 []) [0x14, 0x02, 0x00]] =
    [some (0x0000, 0x0000, 0xFB8F, 0x0200, 8),
     some (0x0000, 0x0000, 0xFB8F, 0x0200, 4),
     some (0x0000, 0x0000, 0xFB8F, 0x0200, 12),
     some (0x0000, 0x0000, 0xFB8F, 0x0103, 3)] := by
  decide

/-- V11.3. -/
theorem test_brlt :
    [regs (given 0x0000 0x0000 0xFB8F 8 []) [0x16, 0x02, 0x00],
     regs (given 0x0000 0x0000 0xFB8F 7 []) [0x16, 0x02, 0x00]] =
    [some (0x0000, 0x0000, 0xFB8F, 0x0200, 8),
     some (0x0000, 0x0000, 0xFB8F, 0x0103, 7)] := by
  decide

/-- V11.4. -/
theorem test_breq :
    [regs (given 0x0000 0x0000 0xFB8F 4 []) [0x18, 0x02, 0x00],
     regs (given 0x0000 0x0000 0xFB8F 11 []) [0x18, 0x02, 0x00]] =
    [some (0x0000, 0x0000, 0xFB8F, 0x0200, 4),
     some (0x0000, 0x0000, 0xFB8F, 0x0103, 11)] := by
  decide

/-- V11.5. -/
theorem test_brne :
    [regs (given 0x0000 0x0000 0xFB8F 0 []) [0x1A, 0x02, 0x00],
     regs (given 0x0000 0x0000 0xFB8F 4 []) [0x1A, 0x02, 0x00]] =
    [some (0x0000, 0x0000, 0xFB8F, 0x0200, 0),
     some (0x0000, 0x0000, 0xFB8F, 0x0103, 4)] := by
  decide

/-- V11.6. -/
theorem test_brge :
    [regs (given 0x0000 0x0000 0xFB8F 0 []) [0x1C, 0x02, 0x00],
     regs (given 0x0000 0x0000 0xFB8F 4 []) [0x1C, 0x02, 0x00],
     regs (given 0x0000 0x0000 0xFB8F 8 []) [0x1C, 0x02, 0x00]] =
    [some (0x0000, 0x0000, 0xFB8F, 0x0200, 0),
     some (0x0000, 0x0000, 0xFB8F, 0x0200, 4),
     some (0x0000, 0x0000, 0xFB8F, 0x0103, 8)] := by
  decide

/-- V11.7. -/
theorem test_brgt :
    [regs (given 0x0000 0x0000 0xFB8F 3 []) [0x1E, 0x02, 0x00],
     regs (given 0x0000 0x0000 0xFB8F 4 []) [0x1E, 0x02, 0x00],
     regs (given 0x0000 0x0000 0xFB8F 8 []) [0x1E, 0x02, 0x00]] =
    [some (0x0000, 0x0000, 0xFB8F, 0x0200, 3),
     some (0x0000, 0x0000, 0xFB8F, 0x0103, 4),
     some (0x0000, 0x0000, 0xFB8F, 0x0103, 8)] := by
  decide

/-- V11.8. -/
theorem test_brv :
    [regs (given 0x0000 0x0000 0xFB8F 2 []) [0x20, 0x02, 0x00],
     regs (given 0x0000 0x0000 0xFB8F 13 []) [0x20, 0x02, 0x00]] =
    [some (0x0000, 0x0000, 0xFB8F, 0x0200, 2),
     some (0x0000, 0x0000, 0xFB8F, 0x0103, 13)] := by
  decide

/-- V11.9. -/
theorem test_brc :
    [regs (given 0x0000 0x0000 0xFB8F 1 []) [0x22, 0x02, 0x00],
     regs (given 0x0000 0x0000 0xFB8F 14 []) [0x22, 0x02, 0x00]] =
    [some (0x0000, 0x0000, 0xFB8F, 0x0200, 1),
     some (0x0000, 0x0000, 0xFB8F, 0x0103, 14)] := by
  decide

/-- V11.12: the sum wraps. -/
theorem test_brc_indexed :
    regs (given 0x0000 0x0010 0xFB8F 1 []) [0x23, 0xFF, 0xF8] =
      some (0x0000, 0x0010, 0xFB8F, 0x0008, 1) := by
  decide

/-- V12.1, V12.2. -/
theorem test_call :
    [regs (given 0x0000 0x0000 0xFB8F 0 []) [0x24, 0x00, 0x40],
     regs (given 0x0000 0x0006 0xFB8F 0 []) [0x25, 0x00, 0x40]] =
    [some (0x0000, 0x0000, 0xFB8D, 0x0040, 0),
     some (0x0000, 0x0006, 0xFB8D, 0x0046, 0)] := by
  decide

/-- V12.1, V12.3: the bytes CALL pushes, at the addresses below SP and around the top of memory. -/
theorem test_call_pushes :
    ramAfter State.reset [0x24, 0x00, 0x40] [0xFB8D, 0xFB8E] = some [0x01, 0x03] ∧
    ramAfter { State.reset with sp := 0x0001 } [0x24, 0x00, 0x40] [0xFFFF, 0x0000] =
      some [0x01, 0x03] := by
  decide

/-- V9.1, V9.2. -/
theorem test_addsp :
    [regs (given 0x0000 0x0000 0xFB8F 0 []) [0x50, 0x00, 0x02],
     regs (given 0x0000 0x0000 0xFFFF 0 []) [0x50, 0x00, 0x01]] =
    [some (0x0000, 0x0000, 0xFB91, 0x0103, 8),
     some (0x0000, 0x0000, 0x0000, 0x0103, 5)] := by
  decide

/-- V9.3 to V9.5. -/
theorem test_subsp :
    [regs (given 0x0000 0x0000 0xFB8F 0 []) [0x58, 0x00, 0x02],
     regs (given 0x0000 0x0000 0xFB8F 0 []) [0x58, 0x00, 0x00],
     regs (given 0x0000 0x0000 0x0000 0 []) [0x58, 0x00, 0x02]] =
    [some (0x0000, 0x0000, 0xFB8D, 0x0103, 9),
     some (0x0000, 0x0000, 0xFB8F, 0x0103, 8),
     some (0x0000, 0x0000, 0xFFFE, 0x0103, 8)] := by
  decide

/-- V9.7, V9.9, V9.11. -/
theorem test_adda :
    [regs (given 0x7FFF 0x0000 0xFB8F 0 []) [0x60, 0x00, 0x01],
     regs (given 0x8000 0x0000 0xFB8F 0 []) [0x60, 0x80, 0x00],
     regs (given 0x0010 0x0000 0xFB8F 0 [(0x0201, 0x05)]) [0x61, 0x02, 0x00]] =
    [some (0x8000, 0x0000, 0xFB8F, 0x0103, 10),
     some (0x0000, 0x0000, 0xFB8F, 0x0103, 7),
     some (0x0015, 0x0000, 0xFB8F, 0x0103, 0)] := by
  decide

/-- V9.10. -/
theorem test_addx :
    regs (given 0x0000 0x0001 0xFB8F 0 []) [0x68, 0xFF, 0xFF] =
      some (0x0000, 0x0000, 0xFB8F, 0x0103, 5) := by
  decide

/-- V9.13, V9.14, V9.17. -/
theorem test_suba :
    [regs (given 0x0005 0x0000 0xFB8F 0 []) [0x70, 0x00, 0x07],
     regs (given 0x0005 0x0000 0xFB8F 0 []) [0x70, 0x00, 0x00],
     regs (given 0xFFFF 0x0000 0xFB8F 0 []) [0x70, 0x80, 0x00]] =
    [some (0xFFFE, 0x0000, 0xFB8F, 0x0103, 8),
     some (0x0005, 0x0000, 0xFB8F, 0x0103, 0),
     some (0x7FFF, 0x0000, 0xFB8F, 0x0103, 3)] := by
  decide

/-- V9.19. -/
theorem test_subx :
    regs (given 0x0000 0x0000 0xFB8F 0 []) [0x78, 0x00, 0x01] =
      some (0x0000, 0xFFFF, 0xFB8F, 0x0103, 8) := by
  decide

/-- V9.20, V9.21. -/
theorem test_anda :
    [regs (given 0x1234 0x0000 0xFB8F 0 []) [0x80, 0x00, 0xFF],
     regs (given 0x1234 0x0000 0xFB8F 3 []) [0x80, 0x00, 0x00]] =
    [some (0x0034, 0x0000, 0xFB8F, 0x0103, 0),
     some (0x0000, 0x0000, 0xFB8F, 0x0103, 7)] := by
  decide

/-- V9.22. -/
theorem test_andx :
    regs (given 0x0000 0x8001 0xFB8F 0 []) [0x88, 0xFF, 0xFF] =
      some (0x0000, 0x8001, 0xFB8F, 0x0103, 8) := by
  decide

/-- V9.23. -/
theorem test_ora :
    regs (given 0x0000 0x0000 0xFB8F 0 []) [0x90, 0x00, 0x00] =
      some (0x0000, 0x0000, 0xFB8F, 0x0103, 4) := by
  decide

/-- V9.24. -/
theorem test_orx :
    regs (given 0x0000 0x00F0 0xFB8F 2 []) [0x98, 0x80, 0x01] =
      some (0x0000, 0x80F1, 0xFB8F, 0x0103, 10) := by
  decide

/-- V10.2, V10.4, V10.7. -/
theorem test_cpwa :
    [regs (given 0x0005 0x0000 0xFB8F 0 []) [0xA0, 0x00, 0x03],
     regs (given 0x0000 0x0000 0xFB8F 0 []) [0xA0, 0x00, 0x00],
     regs (given 0x0001 0x0000 0xFB8F 0 []) [0xA0, 0x80, 0x00]] =
    [some (0x0005, 0x0000, 0xFB8F, 0x0103, 8),
     some (0x0000, 0x0000, 0xFB8F, 0x0103, 4),
     some (0x0001, 0x0000, 0xFB8F, 0x0103, 3)] := by
  decide

/-- V10.9. -/
theorem test_cpwx :
    regs (given 0x0000 0x8000 0xFB8F 0 []) [0xA8, 0x00, 0x01] =
      some (0x0000, 0x8000, 0xFB8F, 0x0103, 8) := by
  decide

/-- V10.10, V10.11: a word compare. -/
theorem test_cpba :
    [regs (given 0x1234 0x0000 0xFB8F 0 []) [0xB0, 0x12, 0x34],
     regs (given 0x0012 0x0000 0xFB8F 0 [(0x0201, 0x12)]) [0xB1, 0x02, 0x00]] =
    [some (0x1234, 0x0000, 0xFB8F, 0x0103, 5),
     some (0x0012, 0x0000, 0xFB8F, 0x0103, 5)] := by
  decide

/-- R250, from X: the word 0x0112 against 0x0012, whose low bytes agree. -/
theorem test_cpbx :
    regs (given 0x0000 0x0012 0xFB8F 0 []) [0xB8, 0x01, 0x12] =
      some (0x0000, 0x0012, 0xFB8F, 0x0103, 1) := by
  decide

/-- V5.1 to V5.4. -/
theorem test_ldwa_modes_1 :
    [regs (given 0x0000 0x0000 0xFB8F 0 m0) [0xC0, 0xBE, 0xEF],
     regs (given 0x0000 0x0000 0xFB8F 0 m0) [0xC1, 0x02, 0x00],
     regs (given 0x0000 0x0000 0xFB8F 0 m0) [0xC2, 0x03, 0x00],
     regs (given 0x0000 0x0000 0xFB8F 0 m0) [0xC3, 0x00, 0x02]] =
    [some (0xBEEF, 0x0000, 0xFB8F, 0x0103, 8),
     some (0xBEEF, 0x0000, 0xFB8F, 0x0103, 8),
     some (0xBEEF, 0x0000, 0xFB8F, 0x0103, 8),
     some (0x0300, 0x0000, 0xFB8F, 0x0103, 0)] := by
  decide

/-- V5.5 to V5.8. -/
theorem test_ldwa_modes_2 :
    [regs (given 0x0000 0x0000 0xFB8F 0 m0) [0xC4, 0x00, 0x02],
     regs (given 0x0000 0x0004 0xFB8F 0 m0) [0xC5, 0x02, 0x00],
     regs (given 0x0000 0x0002 0xFB8F 0 m0) [0xC6, 0x00, 0x02],
     regs (given 0x0000 0x0004 0xFB8F 0 m0) [0xC7, 0x00, 0x02]] =
    [some (0x0200, 0x0000, 0xFB8F, 0x0103, 0),
     some (0x1122, 0x0004, 0xFB8F, 0x0103, 0),
     some (0x3344, 0x0002, 0xFB8F, 0x0103, 0),
     some (0x1122, 0x0004, 0xFB8F, 0x0103, 0)] := by
  decide

/-- R260, from X; V and C unchanged. -/
theorem test_ldwx :
    regs (given 0x0000 0x0005 0xFB8F 11 m0) [0xC9, 0x02, 0x04] =
      some (0x0000, 0x1122, 0xFB8F, 0x0103, 3) := by
  decide

/-- V5.9, V5.10. -/
theorem test_ldba :
    [regs (given 0xFFFF 0x0000 0xFB8F 0 m0) [0xD1, 0x02, 0x00],
     regs (given 0x0000 0x0000 0xFB8F 0 m0) [0xD0, 0x80, 0x42]] =
    [some (0x00BE, 0x0000, 0xFB8F, 0x0103, 0),
     some (0x8042, 0x0000, 0xFB8F, 0x0103, 8)] := by
  decide

/-- V5.12, V5.13. -/
theorem test_ldbx :
    [regs (given 0x0000 0x0000 0xFB8F 0 m0) [0xD9, 0x02, 0x01],
     regs (given 0x0000 0xFFFF 0xFB8F 0 m0) [0xDD, 0x02, 0x01]] =
    [some (0x0000, 0x00EF, 0xFB8F, 0x0103, 0),
     some (0x0000, 0x00BE, 0xFB8F, 0x0103, 0)] := by
  decide

/-- V6.1 to V6.3, V6.11. -/
theorem test_stwa_modes_1 :
    [ramAfter (given 0x1357 0x0000 0xFB8F 0 m0) [0xE1, 0x04, 0x00] [0x0400, 0x0401],
     ramAfter (given 0x1357 0x0000 0xFB8F 0 m0) [0xE2, 0x03, 0x00] [0x0200, 0x0201],
     ramAfter (given 0x1357 0x0000 0xFB8F 0 m0) [0xE3, 0x00, 0x04] [0xFB93, 0xFB94],
     ramAfter (given 0x1357 0x0000 0xFB8F 0 m0) [0xE1, 0xFF, 0xFF] [0xFFFF, 0x0000]] =
    [some [0x13, 0x57],
     some [0x13, 0x57],
     some [0x13, 0x57],
     some [0x13, 0x57]] := by
  decide

/-- V6.5 to V6.7. -/
theorem test_stwa_modes_2 :
    [ramAfter (given 0x1357 0x0002 0xFB8F 0 m0) [0xE5, 0x04, 0x00] [0x0402, 0x0403],
     ramAfter (given 0x1357 0x0002 0xFB8F 0 m0) [0xE6, 0x00, 0x04] [0xFB95, 0xFB96],
     ramAfter (given 0x1357 0x0002 0xFB8F 0 m0) [0xE7, 0x00, 0x00] [0x0300, 0x0301]] =
    [some [0x13, 0x57],
     some [0x13, 0x57],
     some [0x13, 0x57]] := by
  decide

/-- V6.4. -/
theorem test_stwx :
    ramAfter (given 0x0000 0x1357 0xFB8F 0 m0) [0xEC, 0x00, 0x02] [0x0300, 0x0301] =
      some [0x13, 0x57] := by
  decide

/-- V6.8, V6.9. -/
theorem test_stba :
    [ramAfter (given 0x12AB 0x0000 0xFB8F 0 m0) [0xF1, 0x04, 0x00] [0x0400, 0x0401],
     ramAfter (given 0x12AB 0x0000 0xFB8F 0 m0) [0xF2, 0x03, 0x00] [0x0200, 0x0201]] =
    [some [0xAB, 0x00],
     some [0xAB, 0xEF]] := by
  decide

/-- V6.10. -/
theorem test_stbx :
    ramAfter (given 0x0000 0x00CD 0xFB8F 0 m0) [0xFD, 0x04, 0x00] [0x04CC, 0x04CD, 0x04CE] =
      some [0x00, 0xCD, 0x00] := by
  decide

/-- Section 2.6: a store writes no register and no flag. -/
theorem test_store_flags :
    [regs (given 0x1357 0x0000 0xFB8F 8 m0) [0xE1, 0x04, 0x00],
     regs (given 0x0000 0x0000 0xFB8F 8 m0) [0xF1, 0x04, 0x00]] =
    [some (0x1357, 0x0000, 0xFB8F, 0x0103, 8),
     some (0x0000, 0x0000, 0xFB8F, 0x0103, 8)] := by
  decide

/-! ### Fatal errors -/

/-- V14.1, V14.2: code 1, the opcode and the state the fetch left. -/
theorem test_unknown :
    (faulted (step (at100 State.reset [0x26, 0x12, 0x34]))).map
      (fun f => (f.1, f.2.1, f.2.2.opCode, f.2.2.operand, f.2.2.pc)) =
      some (1, 0x26, 0x26, 0x1234, 0x0103) ∧
    (faulted (step (at100 State.reset [0x4F, 0x00, 0x00]))).map
      (fun f => (f.1, f.2.1, f.2.2.pc)) = some (1, 0x4F, 0x0103) := by
  decide
/-- The rows between. -/
theorem test_unknown_rows :
    (faulted (step (at100 State.reset [0x28, 0x00, 0x00]))).map (fun f => (f.1, f.2.1)) =
      some (1, 0x28) ∧
    (faulted (step (at100 State.reset [0x3A, 0x00, 0x00]))).map (fun f => (f.1, f.2.1)) =
      some (1, 0x3A) := by
  decide
/-- V6.13, V14.3: code 2; memory and flags unchanged. -/
theorem test_store_immediate_word :
    (faulted (step (at100 { State.reset with a := 0x0001, n := true } [0xE0, 0x00, 0x10]))).map
      (fun f => (f.1, f.2.1, f.2.2.operand, f.2.2.pc, f.2.2.ram.read 0x0011, nzvc f.2.2)) =
      some (2, 0xE0, 0x0010, 0x0103, 0x00, 8) ∧
    (faulted (step (at100 State.reset [0xE8, 0x00, 0x10]))).map (fun f => (f.1, f.2.1)) =
      some (2, 0xE8) := by
  decide
/-- V6.15, V6.16, V14.4. -/
theorem test_store_immediate_byte :
    (faulted (step (at100 State.reset [0xF0, 0x00, 0x10]))).map (fun f => (f.1, f.2.1)) =
      some (2, 0xF0) ∧
    (faulted (step (at100 State.reset [0xF8, 0x00, 0x10]))).map (fun f => (f.1, f.2.1, f.2.2.pc)) =
      some (2, 0xF8, 0x0103) := by
  decide
/-- V14.5: the fetch wraps, and then the fault. -/
theorem test_unknown_wraps :
    (faulted (step { State.reset with pc := 0xFFFF, ram := [(0xFFFF, 0x4F)] })).map
      (fun f => (f.1, f.2.1, f.2.2.pc)) = some (1, 0x4F, 0x0002) := by
  decide

/-! ### Fetch, ports and the run loop -/

/-- V3.3, V3.4: a fetch around the top of memory. -/
theorem test_fetch_wraps :
    (let t := fetch { State.reset with
        pc := 0xFFFE, ram := [(0x0000, 0x34), (0xFFFE, 0xC0), (0xFFFF, 0x12)] }
     (t.opCode, t.operand, t.pc)) = (0xC0, 0x1234, 0x0001) ∧
    (let t := fetch { State.reset with pc := 0xFFFF, ram := [(0xFFFF, 0x06)] }
     (t.opCode, t.pc)) = (0x06, 0x0000) := by
  decide
/-- V3.6: a fetch from the input port. -/
theorem test_fetch_from_port :
    (let t := fetch { State.reset with pc := 0xFC15, stdIn := [(0, 0x06)] }
     (t.opCode, t.inCur, t.pc)) = (0x06, 1, 0xFC16) := by
  decide
/-- V7.1, V7.2: output to the output port, and a byte of Ram under the input port. -/
theorem test_output_byte :
    (after (step (at100 { State.reset with a := 0x0048 } [0xF1, 0xFC, 0x16]))).map
      (fun t => (t.stdOut, t.outCur, t.ram.read 0xFC16)) = some ([(0, 0x48)], 1, 0x00) ∧
    (after (step (at100 { State.reset with a := 0x0048 } [0xF1, 0xFC, 0x15]))).map
      (fun t => (t.stdOut, t.outCur, t.ram.read 0xFC15)) = some ([], 0, 0x48) := by
  decide
/-- V7.3, V7.4: words across the ports. -/
theorem test_output_word :
    (after (step (at100 { State.reset with a := 0x1357 } [0xE1, 0xFC, 0x15]))).map
      (fun t => (t.stdOut, t.outCur, t.ram.read 0xFC15)) = some ([(0, 0x57)], 1, 0x13) ∧
    (after (step (at100 { State.reset with a := 0x1357 } [0xE1, 0xFC, 0x16]))).map
      (fun t => (t.stdOut, t.outCur, t.ram.read 0xFC17)) = some ([(0, 0x13)], 1, 0x57) := by
  decide
/-- V7.5, V7.6: words that take an input byte. -/
theorem test_input_word :
    (let s := { State.reset with
        stdIn := [(0, 0x11), (1, 0x22)], ram := [(0xFC14, 0xAA), (0xFC16, 0xCC)] }
     (after (step (at100 s [0xC1, 0xFC, 0x14]))).map (fun t => (t.a, t.inCur)) = some (0xAA11, 1) ∧
     (after (step (at100 { s with inCur := 1 } [0xC1, 0xFC, 0x15]))).map (fun t => (t.a, t.inCur)) =
       some (0x22CC, 2)) := by
  decide
/-- V7.7, V7.9: the input cursor wraps; a read of the output port is of Ram. -/
theorem test_input_byte :
    (let s := { State.reset with inCur := 255, stdIn := [(0, 0x41), (255, 0x7A)], ram := [(0xFC16, 0x5A)] }
     (after (step (at100 s [0xD1, 0xFC, 0x15]))).map (fun t => (t.a, t.inCur)) = some (0x007A, 0) ∧
     (after (step (at100 s [0xD1, 0xFC, 0x16]))).map (fun t => (t.a, t.inCur, t.outCur)) =
       some (0x005A, 255, 0)) := by
  decide
/-- V12.4, V12.5: CALL pushes across the ports. -/
theorem test_call_ports :
    [0xFC17, 0xFC18].map (fun sp =>
      (after (step (at100 (given 0 0 sp 0 []) [0x24, 0x00, 0x40]))).map fun t =>
        (t.sp, t.ram.read 0xFC15, t.ram.read 0xFC17, t.stdOut.read 0, t.outCur)) =
      [some (0xFC15, 0x01, 0x00, 0x03, 1), some (0xFC16, 0x00, 0x03, 0x01, 1)] := by
  decide
/-- V13.1, V13.2: a run from reset is one HALT; a second run without `Initialize` takes no step. -/
theorem test_run_halts :
    run 1 State.reset =
      .halted { State.reset with pc := 0x0001, status := .halted } ∧
    run 1 { State.reset with pc := 0x0001, status := .halted } =
      .halted { State.reset with pc := 0x0001, status := .halted } := by
  decide
/-- V13.3, V13.4: `Initialize` lets it run again; OpCode 0x00 at another PC takes no step. -/
theorem test_run_again :
    run 1 (initialise { State.reset with pc := 0x0001, status := .halted }) =
      .halted { State.reset with pc := 0x0001, status := .halted } ∧
    run 1 { State.reset with pc := 0x0005 } =
      .halted { State.reset with pc := 0x0005, status := .halted } := by
  decide
/-- V13.5: a HALT at 0xFFFF leaves PC at 0x0000, and the loop goes on. -/
theorem test_halt_at_top :
    (after (step { State.reset with pc := 0xFFFF, opCode := 0x12 })).map
      (fun t => (t.pc, t.opCode, t.status, t.halt)) = some (0x0000, 0x00, .continuing, false) := by
  decide

/-! ### Flags and arithmetic -/

/-- E1 and V1.1 to V1.3, V1.8, V1.9. -/
theorem test_flag_functions :
    isCarry 0xFFFF 0x0001 = true ∧ isCarry 0x7FFF 0x0001 = false ∧ isCarry 0x8000 0x8000 = true ∧
    isOverflow 0x7FFF 0x0001 = true ∧ isOverflow 0x8000 0x8000 = true ∧
    isOverflow 0x0000 0xFFFF = false ∧ isOverflow 0x8000 0xFFFF = true ∧
    isNegative 0x7FFF = false ∧ isNegative 0x8000 = true ∧ isZero 0x0000 = true ∧
    isZero 0x0001 = false := by
  decide
/-- V1.13 to V1.15, V1.18, V1.20 to V1.22. -/
theorem test_subtraction :
    (sub16 5 0, subC 5 0, subV 5 0) = (5, false, false) ∧
    (sub16 5 5, subC 5 5, subV 5 5) = (0, true, false) ∧
    (sub16 5 7, subC 5 7, subV 5 7) = (0xFFFE, false, false) ∧
    (sub16 0xFFFF 0x8000, subC 0xFFFF 0x8000, subV 0xFFFF 0x8000) = (0x7FFF, true, true) ∧
    (sub16 0x8000 1, subC 0x8000 1, subV 0x8000 1) = (0x7FFF, true, true) ∧
    (sub16 0x7FFF 0xFFFF, subC 0x7FFF 0xFFFF, subV 0x7FFF 0xFFFF) = (0x8000, false, true) ∧
    (sub16 0x8000 0x8000, subC 0x8000 0x8000, subV 0x8000 0x8000) = (0, true, true) := by
  decide
/-- V2.1 to V2.10. -/
theorem test_alu :
    add16 0xFFFF 2 = 1 ∧ not16 0x00FF = 0xFF00 ∧ neg16 0x8000 = 0x8000 ∧ neg16 0x7FFF = 0x8001 ∧
    asl16 0xC000 = (0x8000, true) ∧ asr16 0x8001 = (0xC000, true) ∧
    rol16 0x8000 false = (0, true) ∧ rol16 0 true = (1, false) ∧ ror16 1 false = (0, true) ∧
    ror16 0 true = (0x8000, false) ∧ and16 0x1234 0x00FF = 0x0034 ∧ or16 0x00F0 0x8001 = 0x80F1 := by
  decide

/-! ### The other settings of the parameters (R10) -/

/-- Every parameter but `P_INIT` and `P_MAX_IMAGE` at its other setting. -/
def other : Config :=
  { config with
    byteImm := .lowByte, unaryV := .pep9Overflow, movFlgA := .keep, movAFlg := .extract }

/-- V5.11. -/
theorem test_low_byte :
    (let t := loadReg other .a .byte .immediate 0x8042 State.reset
     (t.a, nzvc t)) = (0x0042, 0) := by
  decide
/-- V8.37 to V8.40. -/
theorem test_pep9_overflow :
    (let t := negReg other .a { State.reset with a := 0x8000 }; (t.a, nzvc t)) = (0x8000, 10) ∧
    (let t := negReg other .a { State.reset with a := 0x0005 }; (t.a, nzvc t)) = (0xFFFB, 8) ∧
    (let t := shiftReg other .asr .a (asr16 0x8001) { State.reset with a := 0x8001, v := true }
     (t.a, nzvc t)) = (0xC000, 11) ∧
    (let t := shiftReg other .rol .a (rol16 0x4000 false) { State.reset with a := 0x4000 }
     (t.a, nzvc t)) = (0x8000, 8) := by
  decide
/-- V8.41 to V8.43. -/
theorem test_keep_and_extract :
    (movFlgA other { State.reset with a := 0x1234, n := true, v := true, c := true }).a = 0x123B ∧
    nzvc (movAFlg other { State.reset with a := 0x0001 }) = 1 ∧
    nzvc (movAFlg other { State.reset with a := 0x000A }) = 10 := by
  decide

/-! ### The store behind the memory -/

/-- A write keeps the entries rising and lists no blank byte. -/
theorem test_memory_canonical :
    ((Memory.write [] 5 0xAA).write 3 0xBB).write 9 0xCC = [(3, 0xBB), (5, 0xAA), (9, 0xCC)] ∧
    Memory.write [(3, 0xBB), (5, 0xAA)] 3 0x00 = [(5, 0xAA)] ∧
    Memory.wf 256 [(3, 0xBB), (3, 0xAA)] = false ∧ Memory.wf 256 [(3, 0x00)] = false ∧
    Memory.wf 256 [(256, 0x01)] = false ∧ Memory.wf 256 [(255, 0x01)] = true := by
  decide

/-! ### Something meets the hypotheses of every statement that has any -/

/-- `DecodeOfEncode`: the ends of the last UNKNOWN row. -/
theorem test_meets_DecodeOfEncode :
    (Instr.unknown40 0x40 0x0000).wellFormed = true ∧
    (Instr.unknown40 0x4F 0xFFFF).wellFormed = true ∧ (Instr.halt).wellFormed = true := by
  decide

/-- `EncodeOfDecode`: an instruction of each format. -/
theorem test_meets_EncodeOfDecode :
    decode [0x11, 0x22] = .ok (.rorx, [0x22]) ∧
    decode [0xFF, 0xFF, 0xFF] = .ok (.stbx .stackDeferredIndexed 0xFFFF, []) := by
  decide

/-- `DecoderFollowsOpcodeRanges`: both ends of each range of unknown opcodes. -/
theorem test_meets_DecoderFollowsOpcodeRanges :
    (0x26 ≤ (0x26 : Byte).toNat ∧ (0x27 : Byte).toNat ≤ 0x27) ∧
    (0x28 ≤ (0x28 : Byte).toNat ∧ (0x2F : Byte).toNat ≤ 0x2F) ∧
    (0x30 ≤ (0x30 : Byte).toNat ∧ (0x3F : Byte).toNat ≤ 0x3F) ∧
    (0x40 ≤ (0x40 : Byte).toNat ∧ (0x4F : Byte).toNat ≤ 0x4F) := by
  decide

/-- `LengthIsDecidedByOpcode`: 0x11 and 0x12, with the operand there and missing. -/
theorem test_meets_LengthIsDecidedByOpcode :
    (0x11 : Byte).toNat < 0x12 ∧ 0x12 ≤ (0x12 : Byte).toNat ∧
    ([0xAB, 0xCD] : List Byte) = 0xAB :: 0xCD :: [] ∧ ([0xAB] : List Byte).length < 2 := by
  decide

/-- `LoadProgramCopiesImage`: an image of exactly the longest length and one byte more. -/
theorem test_meets_LoadProgramCopiesImage :
    ([0xD1] : List Byte).length ≤ { config with maxImage := 1 }.maxImage ∧
    0 < ([0xD1] : List Byte).length ∧ ([0xD1] : List Byte).length ≤ 1 ∧
    { config with maxImage := 1 }.maxImage < ([0xD1, 0x00] : List Byte).length := by
  decide

/-- `FetchLatchesInstruction` and `FetchFromRamBytes`: 0x11 and 0x12 at 0xFC12, whose operand ends just
below the input port. -/
theorem test_meets_Fetch :
    (let s := { State.reset with pc := 0xFC12, ram := [(0xFC12, 0x11)] }
     (readByte s s.pc).1.toNat < 0x12 ∧ (s.ram.read s.pc.toNat).toNat < 0x12) ∧
    (let s := { State.reset with pc := 0xFC12, ram := [(0xFC12, 0x12)] }
     (0x12 ≤ (readByte s s.pc).1.toNat ∧ 0x12 ≤ (s.ram.read s.pc.toNat).toNat) ∧
     s.pc ≠ inPort ∧ s.pc + 1 ≠ inPort ∧ s.pc + 2 ≠ inPort) := by
  decide

/-- `StepRunsLatchedInstruction` and `StepRunsInstructionInRam`: an instruction of each format. -/
theorem test_meets_StepRuns :
    (let s := at100 State.reset [0x06]
     s.status = .continuing ∧ s.pc ≠ inPort ∧ s.pc + 1 ≠ inPort ∧ s.pc + 2 ≠ inPort ∧
     decode [s.ram.read s.pc.toNat, s.ram.read (s.pc + 1).toNat, s.ram.read (s.pc + 2).toNat] =
       .ok (.nota, [0x00, 0x00])) ∧
    (let s := at100 State.reset [0x60, 0x12, 0x34]
     s.status = .continuing ∧
     decode [s.ram.read s.pc.toNat, s.ram.read (s.pc + 1).toNat, s.ram.read (s.pc + 2).toNat] =
       .ok (.adda .immediate 0x1234, [])) := by
  decide

/-- `HaltedMachineStays` and the second clause of `LoopPredicateIsLiteral`. -/
theorem test_meets_HaltedMachineStays :
    { State.reset with status := .halted }.status = .halted ∧ State.reset.halt = false := by
  decide

/-- `LoopConsequences`, second clause: NOTA. -/
theorem test_meets_LoopConsequences_goes_on :
    ∃ s t : State, s.status = .continuing ∧ s.halt = false ∧ step s = .next t ∧ t.opCode ≠ 0x00 :=
  ⟨at100 State.reset [0x06], _, rfl, rfl, rfl, by decide⟩

/-- `LoopConsequences`, third clause: a HALT below 0xFFFF. -/
theorem test_meets_LoopConsequences_halts :
    ∃ s t : State, s.status = .continuing ∧ s.halt = false ∧ step s = .next t ∧ t.opCode = 0x00 ∧
      s.pc = 0xFFFE :=
  ⟨{ State.reset with pc := 0xFFFE }, _, rfl, rfl, rfl, by decide, rfl⟩

/-- `LoopConsequences`, third clause: a HALT at 0xFFFF. -/
theorem test_meets_LoopConsequences_wraps :
    ∃ s t : State, s.status = .continuing ∧ s.halt = false ∧ step s = .next t ∧ t.opCode = 0x00 ∧
      s.pc = 0xFFFF :=
  ⟨{ State.reset with pc := 0xFFFF }, _, rfl, rfl, rfl, by decide, rfl⟩

/-- `LoopConsequences`, fourth and fifth clauses. -/
theorem test_meets_LoopConsequences_runs :
    (State.reset.halt = false ∧ State.reset.pc = 0x0000 ∧ State.reset.ram.read 0 = 0x00) ∧
    ({ State.reset with pc := 0x0001 }.opCode = 0x00 ∧ { State.reset with pc := 0x0001 }.pc ≠ 0x0000) := by
  decide

/-- `RunEndsAreFinal`: a run that ends within its fuel, halted. -/
theorem test_meets_RunEndsAreFinal :
    (∀ t, run 1 State.reset ≠ .outOfFuel t) ∧
    run 1 State.reset = .halted { State.reset with pc := 0x0001, status := .halted } := by
  have h : run 1 State.reset = .halted { State.reset with pc := 0x0001, status := .halted } := by decide
  refine ⟨fun t ht => ?_, h⟩
  rw [h] at ht
  cases ht

/-- `FatalErrorsAreExactlyTwo`: both ends of the unknown opcodes, and the four stores. -/
theorem test_meets_FatalErrorsAreExactlyTwo :
    [0x26, 0x4F, 0xE0, 0xE8, 0xF0, 0xF8].map
      (fun op => (faulted (step (at100 State.reset [op, 0x00, 0x10]))).map fun f => (f.1, f.2.1)) =
      [some (1, 0x26), some (1, 0x4F), some (2, 0xE0), some (2, 0xE8), some (2, 0xF0), some (2, 0xF8)] := by
  decide

/-- `StepKeepsInvariant`: a state that meets the invariant and steps, and a halted one. -/
theorem test_meets_StepKeepsInvariant :
    (State.reset.Inv ∧ ∃ t, step State.reset = .next t) ∧
    { State.reset with pc := 0x0001, status := .halted }.Inv :=
  ⟨⟨by decide, _, rfl⟩, by decide⟩

/-- `OnlyFetchWritesOpcodeAndOperand` and `StaleOperandIsNotObserved`. -/
theorem test_meets_OnlyFetchWritesOpcodeAndOperand :
    (∃ t, exec .nota State.reset = .next t) ∧
    ∃ s t : State, s.status = .continuing ∧ (readByte s s.pc).1.toNat < 0x12 ∧ step s = .next t :=
  ⟨⟨_, rfl⟩, at100 { State.reset with operand := 0x1234 } [0x11], _, rfl, by decide, rfl⟩

/-- `PcAdvancesPastInstruction`: an instruction of each format, the second at the top of memory. -/
theorem test_meets_PcAdvancesPastInstruction :
    (∃ s t : State, s.status = .continuing ∧ step s = .next t ∧
      Part.pc ∉ mayWrite (decodeOp (fetch s).opCode (fetch s).operand) ∧
      (readByte s s.pc).1.toNat < 0x12) ∧
    ∃ s t : State, s.status = .continuing ∧ step s = .next t ∧
      Part.pc ∉ mayWrite (decodeOp (fetch s).opCode (fetch s).operand) ∧
      ¬ (readByte s s.pc).1.toNat < 0x12 :=
  ⟨⟨at100 State.reset [0x11], _, rfl, rfl, by decide, by decide⟩,
    ⟨{ State.reset with pc := 0xFFFF, ram := [(0xFFFF, 0xC0)] }, _, rfl, rfl, by decide, by decide⟩⟩

/-- `StoredBytesAreFetched`: an opcode just above the ports, and an operand that ends just below them. -/
theorem test_meets_StoredBytesAreFetched :
    clearOfPorts ({ State.reset with pc := 0xFC17 }.pc) ∧
    (let s := { State.reset with pc := 0xFC12, ram := [(0xFC12, 0x12)] }
     s.pc ≠ inPort ∧ clearOfPorts (s.pc + 1) ∧ clearOfPorts (s.pc + 2) ∧
       0x12 ≤ (s.ram.read s.pc.toNat).toNat) := by
  decide

/-- `ByteAccessesAndPorts`: the addresses beside the ports, and an index of StdOut beside the cursor. -/
theorem test_meets_ByteAccessesAndPorts :
    ((0xFC14 : Word) ≠ 0xFC15 ∧ (0xFC16 : Word) ≠ 0xFC15) ∧
    ((0xFC15 : Word) ≠ 0xFC16 ∧ (0xFC17 : Word) ≠ 0xFC16) ∧ (1 : Nat) ≠ State.reset.outCur.toNat ∧
    (0x0101 : Nat) ≠ (0x0100 : Word).toNat := by
  decide

/-- `WordRoundTripIsBigEndian`: the words just below and just above the ports. -/
theorem test_meets_WordRoundTripIsBigEndian :
    (clearOfPorts 0xFC13 ∧ clearOfPorts (0xFC13 + 1)) ∧ (clearOfPorts 0xFC17 ∧ clearOfPorts (0xFC17 + 1)) ∧
    (clearOfPorts 0xFFFF ∧ clearOfPorts (0xFFFF + 1)) := by
  decide

/-- `RamReadsLatestWrite`: the addresses beside the ports, with either port as the other address, and the
ports as the address written. -/
theorem test_meets_RamReadsLatestWrite :
    (clearOfPorts 0xFC17 ∧ (0xFC16 : Word) ≠ 0xFC17 ∧ (0xFC15 : Word) ≠ 0xFC17) ∧
    (clearOfPorts 0xFC14 ∧ (0xFC15 : Word) ≠ 0xFC14 ∧ (0xFC16 : Word) ≠ 0xFC14) ∧
    (inPort : Word) ≠ outPort ∧ (outPort : Word) ≠ inPort := by
  decide

/-- `OutputBytesStandInOrder`: a full ring, and two bytes around the ring's end with the entries beside
them. -/
theorem test_meets_OutputBytesStandInOrder :
    ((List.replicate 256 (0x41 : Byte)).length ≤ 256 ∧ 255 < (List.replicate 256 (0x41 : Byte)).length) ∧
    (let s := { State.reset with outCur := 255 }
     ([0x48, 0x69] : List Byte).length ≤ 256 ∧
     (∀ i, i < ([0x48, 0x69] : List Byte).length → 254 ≠ (s.outCur.toNat + i) % 256) ∧
     ∀ i, i < ([0x48, 0x69] : List Byte).length → 1 ≠ (s.outCur.toNat + i) % 256) := by
  rw [List.length_replicate]
  decide

/-- `SubtractionCorners`. -/
theorem test_meets_SubtractionCorners : (0x0001 : Word) ≠ 0 ∧ (0xFFFF : Word) ≠ 0 := by
  decide

/-- `ReturnsPopPc`: stacks whose word ends just below the input port and begins just above it. -/
theorem test_meets_ReturnsPopPc :
    (given 0 0 0xFC13 0 []).sp ≠ inPort ∧ (given 0 0 0xFC13 0 []).sp + 1 ≠ inPort ∧
    (given 0 0 0xFC16 0 []).sp ≠ inPort ∧ (given 0 0 0xFC16 0 []).sp + 1 ≠ inPort := by
  decide

/-- `CallThenReturn`: the stack after reset, one that wraps, and the state CALL leaves. -/
theorem test_meets_CallThenReturn :
    (clearOfPorts (State.reset.sp - 2) ∧ clearOfPorts (State.reset.sp - 2 + 1)) ∧
    (clearOfPorts ((given 0 0 1 0 []).sp - 2) ∧ clearOfPorts ((given 0 0 1 0 []).sp - 2 + 1)) ∧
    ∃ t t' : State, exec (.call .plain 0x0040) State.reset = .next t ∧ t'.sp = t.sp ∧
      ramWord t' t'.sp = ramWord t t.sp :=
  ⟨by decide, by decide, _, { State.reset with sp := 0xFB8D }, rfl, rfl, by decide⟩

/-- `MovaflgTestsMasks`: the first and the last flag. -/
theorem test_meets_MovaflgTestsMasks : 0 < 4 ∧ 3 < 4 := by
  decide

/-- `ResolverPaths`: both settings of `P_BYTE_IMM`, and a mode with an address. -/
theorem test_meets_ResolverPaths :
    config.byteImm = .fullOperand ∧ other.byteImm = .lowByte ∧
    effectiveAddress .stackDeferredIndexed 0x0002 (given 0 4 0xFB8F 0 m0) =
      some (0x0204, given 0 4 0xFB8F 0 m0) := by
  decide

/-- `ModesReadRam`: each of the seven modes, in the vectors' memory. -/
theorem test_meets_ModesReadRam :
    (let s := given 0 4 0xFB8F 0 m0
     pointerCell .direct 0x0200 s = none ∧
     pointerCell .indirect 0x0300 s = some 0x0300 ∧ ramWord s 0x0300 = 0x0200 ∧
     pointerCell .stackRelative 4 s = none ∧ s.sp + 4 = 0xFB93 ∧
     pointerCell .stackDeferred 2 s = some 0xFB91 ∧ ramWord s (s.sp + 2) = 0x0300 ∧
     pointerCell .indexed 0x0200 s = none ∧ 0x0200 + s.x = 0x0204 ∧
     pointerCell .stackIndexed 0 s = none ∧ s.sp + 0 + s.x = 0xFB93 ∧
     pointerCell .stackDeferredIndexed 2 s = some 0xFB95 ∧ ramWord s (s.sp + 2 + s.x) = 0x0204) ∧
    ((0x0300 : Word) ≠ inPort ∧ (0x0300 : Word) + 1 ≠ inPort) ∧
    ((0xFB91 : Word) ≠ inPort ∧ (0xFB91 : Word) + 1 ≠ inPort) ∧
    ((0xFB95 : Word) ≠ inPort ∧ (0xFB95 : Word) + 1 ≠ inPort) ∧
    ((0x0204 : Word) ≠ inPort ∧ (0x0204 : Word) + 1 ≠ inPort) ∧
    ((0xFC13 : Word) ≠ inPort ∧ (0xFC13 : Word) + 1 ≠ inPort ∧ (0xFC16 : Word) ≠ inPort) := by
  decide

/-- `StoresWriteResolvedAddress`. -/
theorem test_meets_StoresWriteResolvedAddress :
    Mode.direct ≠ .immediate ∧ Mode.stackDeferredIndexed ≠ .immediate := by
  decide

/-- `StoreThenLoadReturnsValue`: modes n and sfx over the vectors' memory, a word and a byte, with the
state the store leaves as the later one. -/
theorem test_meets_StoreThenLoadReturnsValue :
    (let s := given 0xBEEF 2 0xFB8F 0 m0
     resolveStore .indirect 0x0300 s = some (0x0200, s) ∧
     resolveStore .stackDeferredIndexed 0 s = some (0x0300, s) ∧
     pointerCell .indirect 0x0300 s = some 0x0300 ∧
     pointerCell .stackDeferredIndexed 0 s = some 0xFB91) ∧
    (clearOfPorts 0x0200 ∧ clearOfPorts (0x0200 + 1) ∧ clearOfPorts 0x0300 ∧ clearOfPorts (0x0300 + 1)) ∧
    ((0x0300 : Word) ≠ 0x0200 ∧ (0x0300 : Word) ≠ 0x0200 + 1 ∧ (0x0300 : Word) + 1 ≠ 0x0200) ∧
    (clearOfPorts 0xFB91 ∧ clearOfPorts (0xFB91 + 1) ∧
      (0xFB91 : Word) ≠ 0x0300 ∧ (0xFB91 : Word) ≠ 0x0300 + 1 ∧ (0xFB91 : Word) + 1 ≠ 0x0300) := by
  decide

/-- `BranchesFollowConditions`: both targets, the second one wrapping. -/
theorem test_meets_BranchesFollowConditions :
    (Index.plain = .plain ∧ (0x0200 : Word) = 0x0200) ∧
    (Index.indexed = .indexed ∧ (0x0008 : Word) = 0xFFF8 + (given 0 0x10 0 0 []).x) := by
  decide

/-- `RegisterAndFlagFrame` and `NonStoringMemoryFrame`: a compare, which may write flags alone. -/
theorem test_meets_Frames :
    (∃ t, exec (.cpwa .immediate 5) State.reset = .next t) ∧
    [Part.a, .x, .sp, .pc, .memory].all (fun p => decide (p ∉ mayWrite (.cpwa .immediate 5))) = true ∧
    [Part.n, .z, .v, .c, .input].all (fun p => decide (p ∉ mayWrite .movspa)) = true :=
  ⟨⟨_, rfl⟩, by decide, by decide⟩

/-- `StoringMemoryFrame`: a word, a byte and a CALL, with addresses beside the stored bytes and the output
port. -/
theorem test_meets_StoringMemoryFrame :
    (∃ t, resolveStore .direct 0xFC15 State.reset = some (0xFC15, State.reset) ∧
      exec (.stwa .direct 0xFC15) State.reset = .next t) ∧
    (∃ t, resolveStore .direct 0x0400 State.reset = some (0x0400, State.reset) ∧
      exec (.stbx .direct 0x0400) State.reset = .next t) ∧
    (∃ t, exec (.call .indexed 0x0040) State.reset = .next t) ∧
    ((0xFC14 : Word) ≠ 0xFC15 ∧ (0xFC14 : Word) ≠ 0xFC15 + 1) ∧ (0xFC16 : Word) = outPort ∧
    ((0x0400 : Word) ≠ outPort ∧ (0x0400 : Word) + 1 ≠ outPort) ∧ (1 : Byte) ≠ State.reset.outCur :=
  ⟨⟨_, rfl, rfl⟩, ⟨_, rfl, rfl⟩, ⟨_, rfl⟩, by decide, by decide, by decide, by decide⟩

end Sys2Proof.Tests
end

/-! ## The scope family: steps, faults, runs and the invariant (00_scope.md)

What executing an instruction can answer is said once, in `exec_answers`: the fatal error of the
instruction's own kind, or a next state that keeps what no instruction writes. -/

namespace Sys2Proof

/-- The fatal error a store raises: the one of immediate mode (R302). -/
def storeFatalKind : Mode → Option Machine.FatalKind
  | .immediate => some .invalidStoreTarget
  | _ => none

/-- The fatal error an instruction raises, where it raises one (R300 to R302). -/
def Instr.fatalKind : Instr → Option Machine.FatalKind
  | .unknown26 _ _ => some .unknownOpcode
  | .unknown28 _ _ => some .unknownOpcode
  | .unknown30 _ _ => some .unknownOpcode
  | .unknown40 _ _ => some .unknownOpcode
  | .stwa m _ => storeFatalKind m
  | .stwx m _ => storeFatalKind m
  | .stba m _ => storeFatalKind m
  | .stbx m _ => storeFatalKind m
  | _ => none

theorem storeFatalKind_of_ne {m : Mode} (h : m ≠ .immediate) : storeFatalKind m = none := by
  cases m with
  | immediate => exact absurd rfl h
  | _ => rfl

/-! ### The opcodes that fault -/

theorem decodeUnary_fatalKind (n : Nat) : (decodeUnary n).fatalKind = none := by
  unfold decodeUnary; split <;> rfl

theorem decodeBranch_fatalKind (k : Nat) (ix : Index) (w : Word) :
    (decodeBranch k ix w).fatalKind = none := by
  unfold decodeBranch; split <;> rfl

theorem decodeUnknown_fatalKind (op : Byte) (w : Word) :
    (decodeUnknown op w).fatalKind = some .unknownOpcode := by
  unfold decodeUnknown
  split; · rfl
  split; · rfl
  split <;> rfl

/-- The stores are the groups from 18 on (R88). -/
theorem decodeGroup_fatalKind (g : Nat) (m : Mode) (w : Word) :
    (decodeGroup g m w).fatalKind = if 18 ≤ g then storeFatalKind m else none := by
  unfold decodeGroup
  split
  case h_22 =>
    have hg : 18 ≤ g := by simp only [imp_false] at *; omega
    rw [if_pos hg]; rfl
  all_goals rfl

theorem storeFatalKind_ofCode (n : Nat) :
    storeFatalKind (Mode.ofCode n) = if n = 0 then some .invalidStoreTarget else none := by
  unfold Mode.ofCode
  split
  case h_8 h0 _ _ _ _ _ _ => rw [if_neg h0]; rfl
  all_goals rfl

/-- The fatal error an opcode byte selects: the unknown opcodes, and the stores in immediate mode. -/
theorem decodeOp_fatalKind (op : Byte) (w : Word) :
    (decodeOp op w).fatalKind =
      if 0x26 ≤ op.toNat ∧ op.toNat ≤ 0x4F then some .unknownOpcode
      else if op = 0xE0 ∨ op = 0xE8 ∨ op = 0xF0 ∨ op = 0xF8 then some .invalidStoreTarget
      else none := by
  have hlt : op.toNat < 256 := op.isLt
  have hstores : (op = 0xE0 ∨ op = 0xE8 ∨ op = 0xF0 ∨ op = 0xF8) ↔
      18 ≤ (op.toNat - 0x50) / 8 ∧ op.toNat % 8 = 0 := by
    simp only [← BitVec.toNat_inj, BitVec.reduceToNat]; omega
  simp only [hstores]
  unfold decodeOp
  split
  · rw [decodeUnary_fatalKind, if_neg (by omega), if_neg (by omega)]
  split
  · rw [decodeBranch_fatalKind, if_neg (by omega), if_neg (by omega)]
  split
  · rw [decodeUnknown_fatalKind, if_pos (by omega)]
  · rw [decodeGroup_fatalKind, storeFatalKind_ofCode, ← ite_and,
      if_neg (c := 0x26 ≤ op.toNat ∧ op.toNat ≤ 0x4F) (by omega)]

end Sys2Proof

namespace Sys2Proof.Machine

/-! ### What executing an instruction keeps -/

/-- What no instruction's execution changes (R28 to R30, R52): OpCode, Operand, HALT, StdIn and the run's
mark; and that Ram and StdOut stay canonical (assumption log 6). -/
structure ExecKeeps (s t : State) : Prop where
  opCode : t.opCode = s.opCode
  operand : t.operand = s.operand
  halt : t.halt = s.halt
  stdIn : t.stdIn = s.stdIn
  status : t.status = s.status
  ram_wf : s.ram.wf ramSize = true → t.ram.wf ramSize = true
  stdOut_wf : s.stdOut.wf bufferSize = true → t.stdOut.wf bufferSize = true

theorem ExecKeeps.refl (s : State) : ExecKeeps s s := ⟨rfl, rfl, rfl, rfl, rfl, id, id⟩

theorem setReg_keeps (r : Reg) (u : Word) (s : State) : ExecKeeps s (s.setReg r u) := by
  constructor <;> simp

theorem branchIf_keeps (k : Cond) (ix : Index) (w : Word) (s : State) :
    ExecKeeps s (branchIf k ix w s) := by
  unfold branchIf
  split
  · constructor <;> simp
  · exact .refl s

theorem returnFromCall_keeps (s : State) : ExecKeeps s (returnFromCall s) := by
  constructor <;> simp [returnFromCall]

theorem callTo_keeps (t : Word) (s : State) : ExecKeeps s (callTo t s) := by
  refine ⟨?_, ?_, ?_, ?_, ?_, fun h => writeWord_ram_wf (s := s.setReg .sp (s.sp - 2)) _ _ h,
    fun h => writeWord_stdOut_wf (s := s.setReg .sp (s.sp - 2)) _ _ h⟩ <;> simp [callTo]

theorem notReg_keeps (r : Reg) (s : State) : ExecKeeps s (notReg r s) := by
  constructor <;> simp [notReg, writeUnary]

theorem negReg_keeps (cfg : Config) (r : Reg) (s : State) : ExecKeeps s (negReg cfg r s) := by
  constructor <;> simp [negReg, writeUnary]

theorem shiftReg_keeps (cfg : Config) (op : UnaryOp) (r : Reg) (p : Word × Bool) (s : State) :
    ExecKeeps s (shiftReg cfg op r p s) := by
  constructor <;> simp [shiftReg, writeUnary]

theorem movAFlg_keeps (cfg : Config) (s : State) : ExecKeeps s (movAFlg cfg s) :=
  ⟨rfl, rfl, rfl, rfl, rfl, id, id⟩

theorem addReg_keeps (cfg : Config) (r : Reg) (m : Mode) (w : Word) (s : State) :
    ExecKeeps s (addReg cfg r m w s) := by
  constructor <;> simp [addReg]

theorem subReg_keeps (cfg : Config) (r : Reg) (m : Mode) (w : Word) (s : State) :
    ExecKeeps s (subReg cfg r m w s) := by
  constructor <;> simp [subReg]

theorem andReg_keeps (cfg : Config) (r : Reg) (m : Mode) (w : Word) (s : State) :
    ExecKeeps s (andReg cfg r m w s) := by
  constructor <;> simp [andReg]

theorem orReg_keeps (cfg : Config) (r : Reg) (m : Mode) (w : Word) (s : State) :
    ExecKeeps s (orReg cfg r m w s) := by
  constructor <;> simp [orReg]

theorem compareReg_keeps (cfg : Config) (r : Reg) (m : Mode) (w : Word) (s : State) :
    ExecKeeps s (compareReg cfg r m w s) := by
  constructor <;> simp [compareReg]

theorem loadReg_keeps (cfg : Config) (r : Reg) (wd : Width) (m : Mode) (w : Word) (s : State) :
    ExecKeeps s (loadReg cfg r wd m w s) := by
  constructor <;> simp [loadReg]

/-- The data write of a store, after the pointer read of its resolution. -/
theorem writeData_keeps {m : Mode} {w ea : Word} {s s1 : State} (wd : Width) (u : Word)
    (h : effectiveAddress m w s = some (ea, s1)) : ExecKeeps s (writeData wd s1 ea u) := by
  rw [effectiveAddress_state h]
  refine ⟨?_, ?_, ?_, ?_, ?_, fun hwf => writeData_ram_wf ea u hwf,
    fun hwf => writeData_stdOut_wf ea u hwf⟩ <;> simp

/-! ### What executing an instruction answers -/

/-- Executing from `s` answers by the verdict `k`: the fatal error `k`, or where there is none a next
state that keeps what no instruction writes. -/
def AnswersBy (k : Option FatalKind) (s : State) (r : Result) : Prop :=
  match k with
  | some k => r = raiseFatal k s
  | none => ∃ t, r = .next t ∧ ExecKeeps s t

theorem answersBy_next {s t : State} (h : ExecKeeps s t) : AnswersBy none s (.next t) := ⟨t, rfl, h⟩

theorem storeReg_answers (r : Reg) (wd : Width) (m : Mode) (w : Word) (s : State) :
    AnswersBy (storeFatalKind m) s (storeReg r wd m w s) := by
  obtain ⟨rfl, hf⟩ | ⟨ea, s1, hea, hn⟩ := storeReg_cases r wd m w s
  · exact hf
  · have hm : m ≠ .immediate := fun h => by simp [(effectiveAddress_eq_none m w s).mpr h] at hea
    rw [storeFatalKind_of_ne hm, hn]
    exact answersBy_next (writeData_keeps wd _ hea)

/-- Every instruction answers by its own verdict: none is refused, and none but the unknown opcodes and
the stores in immediate mode faults. -/
theorem exec_answers (i : Instr) (s : State) : AnswersBy i.fatalKind s (exec i s) := by
  cases i
  case halt => exact answersBy_next (.refl s)
  case ret | ret02 => exact answersBy_next (returnFromCall_keeps s)
  case call => exact answersBy_next (callTo_keeps _ s)
  case br | brle | brlt | breq | brne | brge | brgt | brv | brc =>
    exact answersBy_next (branchIf_keeps _ _ _ s)
  case movspa | movflga => exact answersBy_next (setReg_keeps .a _ s)
  case movaflg => exact answersBy_next (movAFlg_keeps config s)
  case nota | notx => exact answersBy_next (notReg_keeps _ s)
  case nega | negx => exact answersBy_next (negReg_keeps config _ s)
  case asla | aslx | asra | asrx | rola | rolx | rora | rorx =>
    exact answersBy_next (shiftReg_keeps config _ _ _ s)
  case unknown26 | unknown28 | unknown30 | unknown40 => exact rfl
  case addsp | adda | addx => exact answersBy_next (addReg_keeps config _ _ _ s)
  case subsp | suba | subx => exact answersBy_next (subReg_keeps config _ _ _ s)
  case anda | andx => exact answersBy_next (andReg_keeps config _ _ _ s)
  case ora | orx => exact answersBy_next (orReg_keeps config _ _ _ s)
  case cpwa | cpwx | cpba | cpbx => exact answersBy_next (compareReg_keeps config _ _ _ s)
  case ldwa | ldwx | ldba | ldbx => exact answersBy_next (loadReg_keeps config _ _ _ _ s)
  case stwa | stwx | stba | stbx => exact storeReg_answers _ _ _ _ s

theorem exec_cases (i : Instr) (s : State) :
    (∃ k, i.fatalKind = some k ∧ exec i s = raiseFatal k s) ∨
      (i.fatalKind = none ∧ ∃ t, exec i s = .next t ∧ ExecKeeps s t) := by
  have h := exec_answers i s
  cases hk : i.fatalKind with
  | some k => rw [hk] at h; exact .inl ⟨k, rfl, h⟩
  | none => rw [hk] at h; exact .inr ⟨rfl, h⟩

theorem exec_keeps {i : Instr} {s t : State} (h : exec i s = .next t) : ExecKeeps s t := by
  obtain ⟨k, -, hf⟩ | ⟨-, u, hu, hkeeps⟩ := exec_cases i s
  · rw [hf] at h; cases k <;> cases h
  · cases hu.symm.trans h; exact hkeeps

theorem exec_eq_fault_iff (i : Instr) (s : State) (f : Fault) :
    exec i s = .fault f ↔ ∃ k, i.fatalKind = some k ∧ raiseFatal k s = .fault f := by
  obtain ⟨k, hk, hf⟩ | ⟨hk, t, ht, -⟩ := exec_cases i s
  · simp [hk, hf]
  · simp [hk, ht]

/-! ### The step -/

theorem settle_eq_fault_iff (r : Result) (f : Fault) : settle r = .fault f ↔ r = .fault f := by
  cases r <;> simp [settle]

/-- A step answers a next state or a fault; none is refused (R17). -/
theorem step_cases (s : State) : (∃ t, step s = .next t) ∨ ∃ f, step s = .fault f := by
  cases hs : s.status with
  | halted => exact .inl ⟨s, step_halted hs⟩
  | continuing =>
    rw [step_continuing hs, cycle]
    obtain ⟨k, -, hf⟩ | ⟨-, t, ht, -⟩ := exec_cases (fetch s).latched (fetch s)
    · rw [hf]; cases k <;> exact .inr ⟨_, rfl⟩
    · rw [ht]; exact .inl ⟨_, rfl⟩

theorem step_ne_refused (s : State) (r : Refusal) : step s ≠ .refused r := by
  obtain ⟨t, h⟩ | ⟨f, h⟩ := step_cases s <;> simp [h]

/-- A step faults in a run that goes on, with the fatal error of the instruction its fetch latched. -/
theorem step_eq_fault_iff (s : State) (f : Fault) :
    step s = .fault f ↔ s.status = .continuing ∧
      ∃ k, (fetch s).latched.fatalKind = some k ∧ raiseFatal k (fetch s) = .fault f := by
  cases hs : s.status with
  | halted => simp [step_halted hs]
  | continuing => simp [step_continuing hs, settle_eq_fault_iff, cycle, exec_eq_fault_iff]

/-! ### The run loop -/

theorem runLoop_of_stop {s : State} (n : Nat) (h : s.continues = false) :
    runLoop n s = .halted s := by
  cases n <;> simp [runLoop, h]

theorem runLoop_zero_of_continues {s : State} (h : s.continues = true) :
    runLoop 0 s = .outOfFuel s := by
  simp [runLoop, h]

theorem runLoop_succ_of_next {s t : State} (n : Nat) (h : s.continues = true)
    (hs : step s = .next t) : runLoop (n + 1) s = runLoop n t := by
  simp [runLoop, h, hs]

theorem runLoop_succ_of_fault {s : State} {f : Fault} (n : Nat) (h : s.continues = true)
    (hs : step s = .fault f) : runLoop (n + 1) s = .faulted f := by
  simp [runLoop, h, hs]

/-- A loop that ends within its fuel ends the same with more. -/
theorem runLoop_add (n k : Nat) {s : State} (h : ∀ t, runLoop n s ≠ .outOfFuel t) :
    runLoop (n + k) s = runLoop n s := by
  induction n generalizing s with
  | zero =>
    cases hc : s.continues with
    | false => rw [runLoop_of_stop _ hc, runLoop_of_stop _ hc]
    | true => exact absurd (runLoop_zero_of_continues hc) (h s)
  | succ n ih =>
    rw [Nat.add_right_comm]
    cases hc : s.continues with
    | false => rw [runLoop_of_stop _ hc, runLoop_of_stop _ hc]
    | true =>
      obtain ⟨t, hs⟩ | ⟨f, hs⟩ := step_cases s
      · rw [runLoop_succ_of_next n hc hs] at h ⊢
        rw [runLoop_succ_of_next _ hc hs, ih h]
      · rw [runLoop_succ_of_fault _ hc hs, runLoop_succ_of_fault _ hc hs]

/-- The ends a run can come to (R17, R112): it halts where the loop's predicate is false, and is never
refused. -/
def RunEnd.Allowed : RunEnd → Prop
  | .halted t => t.continues = false
  | .faulted _ => True
  | .refused _ => False
  | .outOfFuel _ => True

theorem runLoop_allowed (n : Nat) (s : State) : (runLoop n s).Allowed := by
  induction n generalizing s with
  | zero =>
    cases hc : s.continues with
    | false => rw [runLoop_of_stop 0 hc]; exact hc
    | true => rw [runLoop_zero_of_continues hc]; trivial
  | succ n ih =>
    cases hc : s.continues with
    | false => rw [runLoop_of_stop _ hc]; exact hc
    | true =>
      obtain ⟨t, hs⟩ | ⟨f, hs⟩ := step_cases s
      · rw [runLoop_succ_of_next n hc hs]; exact ih t
      · rw [runLoop_succ_of_fault n hc hs]; trivial

theorem run_allowed (n : Nat) (s : State) : (run n s).Allowed := runLoop_allowed n s.testLoop

/-! ### The obligations -/

/-- Settles O20: a halted machine stays, and a completed instruction keeps the stores and HALT from
the fetched state on, with the mark set from the predicate itself. -/
theorem stepKeepsInvariant : Obligations.StepKeepsInvariant := by
  intro s t hinv hstep
  obtain ⟨-, rfl⟩ | ⟨-, u, hu, rfl⟩ := step_next_cases hstep
  · exact hinv
  · obtain ⟨hram, hin, hout, hhalt, -⟩ := hinv
    have hkeeps := exec_keeps hu
    exact ⟨hkeeps.ram_wf (by simpa using hram), by simpa [hkeeps.stdIn] using hin,
      hkeeps.stdOut_wf (by simpa using hout), by simpa [hkeeps.halt] using hhalt,
      (testLoop_status u).mp⟩

/-- Settles O18, by induction on the fuel (`runLoop_add`, `runLoop_allowed`). -/
theorem runEndsAreFinal : Obligations.RunEndsAreFinal :=
  ⟨fun n k _ h => runLoop_add n k h,
    fun n s t h => show (RunEnd.halted t).Allowed from h ▸ run_allowed n s,
    fun n s r h => show (RunEnd.refused r).Allowed from h ▸ run_allowed n s⟩

/-- Settles O19: a step's fault is the verdict on the fetched opcode (`decodeOp_fatalKind`). -/
theorem fatalErrorsAreExactlyTwo : Obligations.FatalErrorsAreExactlyTwo := by
  refine ⟨fun s f => ?_, rfl, rfl, step_ne_refused⟩
  rw [step_eq_fault_iff, State.latched, decodeOp_fatalKind]
  refine and_congr_right fun _ => ?_
  rw [← and_assoc (a := 0x26 ≤ _)]
  split
  · next hunknown =>
    have hstore : ¬((fetch s).opCode = 0xE0 ∨ (fetch s).opCode = 0xE8 ∨ (fetch s).opCode = 0xF0 ∨
        (fetch s).opCode = 0xF8) := by
      simp only [← BitVec.toNat_inj, BitVec.reduceToNat]; omega
    simp only [hunknown, hstore]
    simp [raiseFatal, eq_comm]
  · next hunknown =>
    simp only [hunknown]
    split
    · next hstore => simp only [hstore]; simp [raiseFatal, eq_comm]
    · next hstore => simp only [hstore]; simp

/-- Settles O13: the step of a run that goes on, with the mark `settle` sets written out. -/
theorem stepRunsLatchedInstruction : Obligations.StepRunsLatchedInstruction := by
  intro s hs
  rw [step_continuing hs, cycle, State.latched]
  cases exec (decodeOp (fetch s).opCode (fetch s).operand) (fetch s) <;> rfl

end Sys2Proof.Machine

/-! ## The state family: what a fetch latches, what an instruction writes (10_state.md)

What executing an instruction may write is said once, in `exec_writes`: the parts its row of the writers'
table names. Each shared operation's parts are those of the writes it is composed of. -/

namespace Sys2Proof.Machine

/-! ### The parts a change of the state writes -/

/-- A part of the state is in `t` what it is in `s`. -/
def Part.Kept : Part → State → State → Prop
  | .a, s, t => t.a = s.a
  | .x, s, t => t.x = s.x
  | .sp, s, t => t.sp = s.sp
  | .pc, s, t => t.pc = s.pc
  | .n, s, t => t.n = s.n
  | .z, s, t => t.z = s.z
  | .v, s, t => t.v = s.v
  | .c, s, t => t.c = s.c
  | .memory, s, t => t.ram = s.ram ∧ t.stdOut = s.stdOut ∧ t.outCur = s.outCur
  | .input, s, t => t.inCur = s.inCur

/-- Every part that is not listed is kept. -/
def WritesOnly (s t : State) (ps : List Part) : Prop := ∀ p, p ∉ ps → p.Kept s t

/-- The part a register is. -/
def Reg.part : Reg → Part
  | .a => .a
  | .x => .x
  | .sp => .sp

theorem Part.Kept.refl (p : Part) (s : State) : p.Kept s s := by
  cases p
  case memory => exact ⟨rfl, rfl, rfl⟩
  all_goals exact rfl

theorem Part.Kept.trans {p : Part} {s t u : State} (h : p.Kept s t) (h' : p.Kept t u) :
    p.Kept s u := by
  cases p
  case memory =>
    obtain ⟨hram, hout, hcur⟩ := h
    obtain ⟨hram', hout', hcur'⟩ := h'
    exact ⟨hram'.trans hram, hout'.trans hout, hcur'.trans hcur⟩
  all_goals exact Eq.trans h' h

theorem WritesOnly.refl (s : State) (ps : List Part) : WritesOnly s s ps := fun p _ => .refl p s

theorem WritesOnly.mono {ps qs : List Part} {s t : State} (h : WritesOnly s t ps) (hsub : ps ⊆ qs) :
    WritesOnly s t qs :=
  fun p hp => h p fun hmem => hp (hsub hmem)

/-- One change after another writes what either writes. -/
theorem WritesOnly.trans {ps qs : List Part} {s t u : State} (h : WritesOnly s t ps)
    (h' : WritesOnly t u qs) : WritesOnly s u (qs ++ ps) := by
  intro p hp
  rw [List.mem_append, not_or] at hp
  exact (h p hp.2).trans (h' p hp.1)

/-! ### The parts each update writes -/

theorem WritesOnly.setReg {ps : List Part} {s t : State} (h : WritesOnly s t ps) (r : Reg) (u : Word) :
    WritesOnly s (t.setReg r u) (r.part :: ps) := by
  refine h.trans (qs := [r.part]) fun p hp => ?_
  cases r <;> cases p <;> simp_all [Part.Kept, Reg.part]

theorem WritesOnly.setPc {ps : List Part} {s t : State} (h : WritesOnly s t ps) (u : Word) :
    WritesOnly s (t.setPc u) (.pc :: ps) := by
  refine h.trans (qs := [.pc]) fun p hp => ?_
  cases p <;> simp_all [Part.Kept]

theorem WritesOnly.setNZ {ps : List Part} {s t : State} (h : WritesOnly s t ps) (u : Word) :
    WritesOnly s (t.setNZ u) (.n :: .z :: ps) := by
  refine h.trans (qs := [.n, .z]) fun p hp => ?_
  cases p <;> simp_all [Part.Kept]

theorem WritesOnly.setV {ps : List Part} {s t : State} (h : WritesOnly s t ps) (b : Bool) :
    WritesOnly s (t.setV b) (.v :: ps) := by
  refine h.trans (qs := [.v]) fun p hp => ?_
  cases p <;> simp_all [Part.Kept]

theorem WritesOnly.setC {ps : List Part} {s t : State} (h : WritesOnly s t ps) (b : Bool) :
    WritesOnly s (t.setC b) (.c :: ps) := by
  refine h.trans (qs := [.c]) fun p hp => ?_
  cases p <;> simp_all [Part.Kept]

theorem inCur_writes (s : State) (k : Byte) : WritesOnly s { s with inCur := k } [.input] := by
  intro p hp
  cases p <;> simp_all [Part.Kept]

theorem readWord_writes (s : State) (a : Word) : WritesOnly s (readWord s a).2 [.input] := by
  rw [readWord_state]
  exact inCur_writes s _

theorem resolveLoad_writes (cfg : Config) (m : Mode) (wd : Width) (w : Word) (s : State) :
    WritesOnly s (resolveLoad cfg m wd w s).2 [.n, .z, .input] := by
  rw [resolveLoad, loadValue_state]
  exact (inCur_writes s _).setNZ _

theorem WritesOnly.writeData {ps : List Part} {s t : State} (h : WritesOnly s t ps) (wd : Width)
    (a u : Word) : WritesOnly s (writeData wd t a u) (.memory :: ps) := by
  refine h.trans (qs := [.memory]) fun p hp => ?_
  cases p <;> simp_all [Part.Kept]

/-! ### The parts each shared operation writes -/

theorem branchIf_writes (k : Cond) (ix : Index) (w : Word) (s : State) :
    WritesOnly s (branchIf k ix w s) [.pc] := by
  unfold branchIf
  split
  · exact (WritesOnly.refl s []).setPc _
  · exact .refl s _

theorem returnFromCall_writes (s : State) : WritesOnly s (returnFromCall s) [.pc, .sp, .input] :=
  (((readWord_writes s s.sp).setPc _).setReg .sp _).mono (by simp [Reg.part])

theorem callTo_writes (t : Word) (s : State) : WritesOnly s (callTo t s) [.pc, .sp, .memory] :=
  ((((WritesOnly.refl s []).setReg .sp _).writeData .word _ _).setPc _).mono (by simp [Reg.part])

theorem writeUnary_writes (r : Reg) (u : Word) (s : State) :
    WritesOnly s (writeUnary r u s) [r.part, .n, .z] :=
  (((WritesOnly.refl s []).setReg r _).setNZ _).mono (by simp)

theorem negReg_writes (cfg : Config) (r : Reg) (s : State) :
    WritesOnly s (negReg cfg r s) [r.part, .n, .z, .v] :=
  ((writeUnary_writes r _ s).setV _).mono (by simp)

theorem shiftReg_writes (cfg : Config) (op : UnaryOp) (r : Reg) (p : Word × Bool) (s : State) :
    WritesOnly s (shiftReg cfg op r p s) [r.part, .n, .z, .v, .c] :=
  (((writeUnary_writes r _ s).setV _).setC _).mono (by simp)

theorem movAFlg_writes (cfg : Config) (s : State) : WritesOnly s (movAFlg cfg s) [.n, .z, .v, .c] := by
  intro p hp
  cases p <;> simp_all [Part.Kept, movAFlg]

theorem addReg_writes (cfg : Config) (r : Reg) (m : Mode) (w : Word) (s : State) :
    WritesOnly s (addReg cfg r m w s) [r.part, .n, .z, .v, .c, .input] :=
  (((((resolveLoad_writes cfg m .word w s).setReg r _).setNZ _).setV _).setC _).mono (by simp)

theorem subReg_writes (cfg : Config) (r : Reg) (m : Mode) (w : Word) (s : State) :
    WritesOnly s (subReg cfg r m w s) [r.part, .n, .z, .v, .c, .input] :=
  (((((resolveLoad_writes cfg m .word w s).setReg r _).setNZ _).setV _).setC _).mono (by simp)

theorem andReg_writes (cfg : Config) (r : Reg) (m : Mode) (w : Word) (s : State) :
    WritesOnly s (andReg cfg r m w s) [r.part, .n, .z, .input] :=
  (((resolveLoad_writes cfg m .word w s).setReg r _).setNZ _).mono (by simp)

theorem orReg_writes (cfg : Config) (r : Reg) (m : Mode) (w : Word) (s : State) :
    WritesOnly s (orReg cfg r m w s) [r.part, .n, .z, .input] :=
  (((resolveLoad_writes cfg m .word w s).setReg r _).setNZ _).mono (by simp)

theorem compareReg_writes (cfg : Config) (r : Reg) (m : Mode) (w : Word) (s : State) :
    WritesOnly s (compareReg cfg r m w s) [.n, .z, .v, .c, .input] :=
  ((((resolveLoad_writes cfg m .word w s).setNZ _).setV _).setC _).mono (by simp)

theorem loadReg_writes (cfg : Config) (r : Reg) (wd : Width) (m : Mode) (w : Word) (s : State) :
    WritesOnly s (loadReg cfg r wd m w s) [r.part, .n, .z, .input] :=
  (resolveLoad_writes cfg m wd w s).setReg r _

/-! ### The parts each instruction writes -/

/-- The next state a result answers, where it answers one, keeps every part that is not listed. -/
def AnswersWithin (s : State) (r : Result) (ps : List Part) : Prop :=
  ∀ t, r = .next t → WritesOnly s t ps

theorem answersWithin_next {ps : List Part} {s t : State} (h : WritesOnly s t ps) :
    AnswersWithin s (.next t) ps := by
  rintro _ ⟨⟩; exact h

theorem raiseFatal_within (k : FatalKind) (s : State) (ps : List Part) :
    AnswersWithin s (raiseFatal k s) ps := by
  intro t h
  cases k <;> cases h

theorem storeReg_within (r : Reg) (wd : Width) (m : Mode) (w : Word) (s : State) :
    AnswersWithin s (storeReg r wd m w s) [.memory, .input] := by
  obtain ⟨-, hf⟩ | ⟨ea, s1, hea, hn⟩ := storeReg_cases r wd m w s
  · rw [hf]; exact raiseFatal_within .invalidStoreTarget s _
  · rw [hn, effectiveAddress_state hea]
    exact answersWithin_next ((inCur_writes s _).writeData wd ea _)

theorem exec_within (i : Instr) (s : State) : AnswersWithin s (exec i s) (mayWrite i) := by
  cases i
  case halt => exact answersWithin_next (.refl s _)
  case ret | ret02 => exact answersWithin_next (returnFromCall_writes s)
  case call => exact answersWithin_next (callTo_writes _ s)
  case br | brle | brlt | breq | brne | brge | brgt | brv | brc =>
    exact answersWithin_next (branchIf_writes _ _ _ s)
  case movspa | movflga => exact answersWithin_next ((WritesOnly.refl s []).setReg .a _)
  case movaflg => exact answersWithin_next (movAFlg_writes config s)
  case nota | notx => exact answersWithin_next (writeUnary_writes _ _ s)
  case nega | negx => exact answersWithin_next (negReg_writes config _ s)
  case asla | aslx | asra | asrx | rola | rolx | rora | rorx =>
    exact answersWithin_next (shiftReg_writes config _ _ _ s)
  case unknown26 | unknown28 | unknown30 | unknown40 => exact raiseFatal_within .unknownOpcode s _
  case addsp | adda | addx => exact answersWithin_next (addReg_writes config _ _ _ s)
  case subsp | suba | subx => exact answersWithin_next (subReg_writes config _ _ _ s)
  case anda | andx => exact answersWithin_next (andReg_writes config _ _ _ s)
  case ora | orx => exact answersWithin_next (orReg_writes config _ _ _ s)
  case cpwa | cpwx | cpba | cpbx => exact answersWithin_next (compareReg_writes config _ _ _ s)
  case ldwa | ldwx | ldba | ldbx => exact answersWithin_next (loadReg_writes config _ _ _ _ s)
  case stwa | stwx | stba | stbx => exact storeReg_within _ _ _ _ s

/-- An instruction writes no part of the state but those its row of the writers' table names (R20, R21,
R23, R25, R27). -/
theorem exec_writes {i : Instr} {s t : State} (h : exec i s = .next t) : WritesOnly s t (mayWrite i) :=
  exec_within i s t h

/-! ### Operand below 0x12 -/

theorem readByte_setOperand (s : State) (a w : Word) :
    readByte (s.setOperand w) a = ((readByte s a).1, (readByte s a).2.setOperand w) := by
  unfold readByte; split <;> rfl

theorem readWord_setOperand (s : State) (a w : Word) :
    readWord (s.setOperand w) a = ((readWord s a).1, (readWord s a).2.setOperand w) := by
  simp [readWord, readByte_setOperand]

theorem returnFromCall_setOperand (s : State) (w : Word) :
    returnFromCall (s.setOperand w) = (returnFromCall s).setOperand w := by
  rw [returnFromCall, State.setOperand_sp, readWord_setOperand]
  rfl

/-- An instruction of format U does not read the Operand register (R102). -/
theorem exec_setOperand {i : Instr} {s t : State} (w : Word) (hi : operandOf i = none)
    (h : exec i s = .next t) : exec i (s.setOperand w) = .next (t.setOperand w) := by
  cases i
  case ret | ret02 => cases h; exact congrArg Host.Outcome.next (returnFromCall_setOperand s w)
  case halt | movspa | movflga | movaflg | nota | notx | nega | negx | asla | aslx | asra | asrx |
      rola | rolx | rora | rorx =>
    cases h; rfl
  all_goals cases hi

/-- Below 0x12 a fetch passes over whatever Operand holds (R102). -/
theorem fetch_setOperand_unary {s : State} (w : Word) (h : requiresOperand (readByte s s.pc).1 = false) :
    fetch (s.setOperand w) = (fetch s).setOperand w := by
  have hs : fetch s = fetchOpcode s := by simp [fetch, fetchOpcode, h]
  have hw : fetch (s.setOperand w) = fetchOpcode (s.setOperand w) := by
    simp [fetch, fetchOpcode, readByte_setOperand, h]
  rw [hs, hw, fetchOpcode, State.setOperand_pc, readByte_setOperand]
  rfl

/-! ### The step of a run that goes on -/

/-- Every way a step of a run that goes on answers a next state: the fetched instruction completes. -/
theorem step_next_of_continuing {s t : State} (hs : s.status = .continuing) (h : step s = .next t) :
    ∃ u, exec (fetch s).latched (fetch s) = .next u ∧ t = u.testLoop := by
  obtain ⟨hhalted, -⟩ | ⟨-, hu⟩ := step_next_cases h
  · rw [hs] at hhalted; cases hhalted
  · exact hu

/-! ### The obligations of the state family -/

/-- Settles O58: the parts come from `exec_writes`, the fields no instruction writes from
`exec_keeps`. -/
theorem registerAndFlagFrame : Obligations.RegisterAndFlagFrame := by
  intro i s t h
  have hw := exec_writes h
  have hk := exec_keeps h
  exact ⟨hw .a, hw .x, hw .sp, hw .pc, hw .n, hw .z, hw .v, hw .c, hw .input,
    hk.opCode, hk.operand, hk.halt, hk.stdIn, hk.status⟩

/-- Settles O12: `fetch_of_ne` on each side of 0x12. -/
theorem fetchFromRamBytes : Obligations.FetchFromRamBytes := by
  intro s h h1 h2
  have hlo : s.pc + 1 + 1 = s.pc + 2 := BitVec.add_assoc s.pc 1 1
  have hpast : s.pc + 1 + 2 = s.pc + 3 := BitVec.add_assoc s.pc 1 2
  rw [fetch_of_ne h h1 (hlo ▸ h2), hlo, hpast]
  constructor
  · intro hop; rw [requiresOperand_eq_false.mpr hop]; rfl
  · intro hop; rw [requiresOperand_eq_true.mpr hop]; rfl

/-- Settles O22: execution keeps what the fetch latched (`exec_keeps`). -/
theorem onlyFetchWritesOpcodeAndOperand : Obligations.OnlyFetchWritesOpcodeAndOperand := by
  constructor
  · intro i s t h
    have hk := exec_keeps h
    exact ⟨hk.opCode, hk.operand, hk.halt, hk.stdIn, hk.status⟩
  · intro s t hs hstep
    obtain ⟨u, hu, rfl⟩ := step_next_of_continuing hs hstep
    have hk := exec_keeps hu
    have hop : u.opCode = (readByte s s.pc).1 := hk.opCode.trans (fetch_opCode s)
    refine ⟨hop, hk.operand, fun hlt => ?_, hk.halt.trans (fetch_halt s),
      hk.stdIn.trans (fetch_stdIn s)⟩
    have hunary : requiresOperand (readByte s s.pc).1 = false :=
      requiresOperand_eq_false.mpr (hop ▸ hlt)
    exact hk.operand.trans (fetch_operand_unary hunary)

/-- Settles O23: neither the fetch nor the execution of an instruction below 0x12 reads Operand, and the
loop's predicate does not either. -/
theorem staleOperandIsNotObserved : Obligations.StaleOperandIsNotObserved := by
  intro s t w hs hlt hstep
  obtain ⟨u, hu, rfl⟩ := step_next_of_continuing hs hstep
  have hunary : requiresOperand (readByte s s.pc).1 = false := requiresOperand_eq_false.mpr hlt
  have hop : requiresOperand (fetch s).opCode = false := by rw [fetch_opCode]; exact hunary
  have hfetch := fetch_setOperand_unary w hunary
  have hlatched : (fetch (s.setOperand w)).latched = (fetch s).latched := by
    rw [hfetch]; exact decodeOp_of_unary _ _ hop
  have hexec : cycle (s.setOperand w) = .next (u.setOperand w) := by
    rw [cycle, hlatched, hfetch]
    exact exec_setOperand w (operandOf_decodeOp_unary _ hop) hu
  calc step (s.setOperand w) = settle (cycle (s.setOperand w)) := step_continuing hs
    _ = .next (u.testLoop.setOperand w) := by rw [hexec]; rfl

/-- Settles O24: execution keeps the PC the fetch left, unless its row names PC. -/
theorem pcAdvancesPastInstruction : Obligations.PcAdvancesPastInstruction := by
  intro s t hs hstep hpc
  obtain ⟨u, hu, rfl⟩ := step_next_of_continuing hs hstep
  have hkept : u.pc = (fetch s).pc := exec_writes hu .pc hpc
  have hpast := hkept.trans (fetch_pc s)
  split
  · next hlt => simpa [requiresOperand_eq_false.mpr hlt] using hpast
  · next hge => simpa [requiresOperand_eq_true.mpr (Nat.le_of_not_lt hge)] using hpast

/-- Settles O21: the stores are empty, HALT is false and the run goes on. -/
theorem resetMeetsInvariant : Obligations.ResetMeetsInvariant :=
  ⟨Memory.wf_nil _, Memory.wf_nil _, Memory.wf_nil _, rfl, nofun⟩

end Sys2Proof.Machine

/-! ## The memory family: accesses, the two ports, and what an instruction stores (20_memory.md)

A read after a write is said once for bytes and lifted to words; what a write leaves unchanged is one
predicate for each width, which the stores and CALL meet. -/

namespace Sys2Proof

/-! ### Byte order as numbers -/

theorem highByte_toNat (u : Word) : (highByte u).toNat = u.toNat / 256 := by
  have hlt : u.toNat < 65536 := u.isLt
  rw [highByte, BitVec.extractLsb'_toNat, Nat.shiftRight_eq_div_pow]
  omega

theorem lowByte_toNat (u : Word) : (lowByte u).toNat = u.toNat % 256 := by
  rw [lowByte, BitVec.extractLsb'_toNat, Nat.shiftRight_zero]

/-- The bytes of a word determine it: `256 * hi + lo` (R57). -/
theorem wordOfBytes_toNat (hi lo : Byte) : (wordOfBytes hi lo).toNat = 256 * hi.toNat + lo.toNat := by
  have hhigh := highByte_toNat (wordOfBytes hi lo)
  have hlow := lowByte_toNat (wordOfBytes hi lo)
  rw [Machine.highByte_wordOfBytes] at hhigh
  rw [Machine.lowByte_wordOfBytes] at hlow
  omega

end Sys2Proof

namespace Sys2Proof.Machine

/-- A word's second byte is not at its first address, wrapping included. -/
theorem address_ne_next (a : Word) : a ≠ a + 1 := by bv_omega

theorem address_ne_next_next (a : Word) : a ≠ a + 1 + 1 := by bv_omega

/-! ### A read after a write -/

theorem readByte_writeByte_same (s : State) {a : Word} (b : Byte) (h : clearOfPorts a) :
    (readByte (writeByte s a b) a).1 = b := by
  rw [readByte_of_ne h.1]
  exact writeByte_read_same s b h.2

/-- A byte write leaves what every other address reads, a port or not. -/
theorem readByte_writeByte_other (s : State) {a i : Word} (b : Byte) (h : i ≠ a) :
    (readByte (writeByte s a b) i).1 = (readByte s i).1 := by
  by_cases hport : i = inPort
  · subst hport
    simp
  · rw [readByte_of_ne hport, readByte_of_ne hport]
    exact writeByte_read_other s b h

theorem readByte_writeWord_high (s : State) {a : Word} (u : Word) (h : clearOfPorts a) :
    (readByte (writeWord s a u) a).1 = highByte u := by
  rw [writeWord, readByte_writeByte_other _ _ (address_ne_next a), readByte_writeByte_same _ _ h]

theorem readByte_writeWord_low (s : State) {a : Word} (u : Word) (h : clearOfPorts (a + 1)) :
    (readByte (writeWord s a u) (a + 1)).1 = lowByte u :=
  readByte_writeByte_same _ _ h

/-- A word clear of the ports reads back whole. -/
theorem readWord_writeWord (s : State) {a : Word} (u : Word) (h : clearOfPorts a)
    (h' : clearOfPorts (a + 1)) : (readWord (writeWord s a u) a).1 = u := by
  have hstate : (readByte (writeWord s a u) a).2 = writeWord s a u := by rw [readByte_of_ne h.1]
  rw [readWord, hstate, readByte_writeWord_high s u h, readByte_writeWord_low s u h', wordOfBytes_bytes]

/-- Clear of the input port, the operand a fetch at `p` latches is the word read past the opcode byte
(R101). -/
theorem fetch_operand_of_ne {s : State} {p : Word} (hpc : s.pc = p) (h : p ≠ inPort)
    (h1 : p + 1 ≠ inPort) (h2 : p + 1 + 1 ≠ inPort)
    (hop : requiresOperand (s.ram.read p.toNat) = true) :
    (fetch s).operand = (readWord s (p + 1)).1 := by
  subst hpc
  rw [fetch_of_ne h h1 h2, if_pos hop, readWord_of_ne h1 h2]

/-! ### What a write leaves unchanged -/

/-- A byte write past the output port changes Ram alone. -/
theorem writeByte_state (s : State) {a : Word} (b : Byte) (h : a ≠ outPort) :
    { writeByte s a b with ram := s.ram } = s := by
  rw [writeByte_of_ne b h]
  rfl

/-- Storing a byte at `a` on the way from `s` to `t` leaves the rest of Ram and of the output alone: Ram
under the output port always, StdOut past the cursor, and all of the output where `a` is not the port. -/
def ByteStoreFrame (s t : State) (a : Word) : Prop :=
  (∀ i : Word, i ≠ a ∨ i = outPort → t.ram.read i.toNat = s.ram.read i.toNat) ∧
  (∀ k : Byte, k ≠ s.outCur ∨ a ≠ outPort → t.stdOut.read k.toNat = s.stdOut.read k.toNat) ∧
  (a ≠ outPort → t.outCur = s.outCur)

/-- `ByteStoreFrame` of a word, stored at `a` and `a + 1`. -/
def WordStoreFrame (s t : State) (a : Word) : Prop :=
  (∀ i : Word, (i ≠ a ∧ i ≠ a + 1) ∨ i = outPort → t.ram.read i.toNat = s.ram.read i.toNat) ∧
  (∀ k : Byte, k ≠ s.outCur ∨ (a ≠ outPort ∧ a + 1 ≠ outPort) →
    t.stdOut.read k.toNat = s.stdOut.read k.toNat) ∧
  (a ≠ outPort → a + 1 ≠ outPort → t.outCur = s.outCur)

theorem writeByte_storeFrame (s : State) (a : Word) (b : Byte) :
    ByteStoreFrame s (writeByte s a b) a := by
  by_cases hport : a = outPort
  · subst hport
    refine ⟨fun i _ => by rw [writeByte_ram_outPort], fun k hk => ?_, fun h => absurd rfl h⟩
    have hcur : k.toNat ≠ s.outCur.toNat := fun h =>
      hk.elim (· (BitVec.eq_of_toNat_eq h)) (· rfl)
    rw [writeByte_outPort]
    exact Memory.read_write_other s.stdOut b hcur
  · obtain ⟨hout, hcur⟩ := writeByte_output s b hport
    refine ⟨fun i hi => writeByte_read_other s b ?_, fun k _ => by rw [hout], fun _ => hcur⟩
    rintro rfl
    exact hi.elim (· rfl) hport

/-- At most one byte of a word is at the output port, so the output takes at most one. -/
theorem writeWord_storeFrame (s : State) (a u : Word) : WordStoreFrame s (writeWord s a u) a := by
  obtain ⟨hram, hout, hcur⟩ := writeByte_storeFrame s a (highByte u)
  obtain ⟨hram', hout', hcur'⟩ := writeByte_storeFrame (writeByte s a (highByte u)) (a + 1) (lowByte u)
  refine ⟨fun i hi => ?_, fun k hk => ?_, fun ha ha' => (hcur' ha').trans (hcur ha)⟩
  · exact (hram' i (hi.imp_left And.right)).trans (hram i (hi.imp_left And.left))
  · refine (hout' k ?_).trans (hout k (hk.imp_right And.left))
    by_cases hport : a = outPort
    · exact .inr fun h => address_ne_next a (hport.trans h.symm)
    · rw [hcur hport]
      exact hk.imp_right And.right

/-- Where a store's address resolves, its next state is the data write after the pointer read. -/
theorem storeReg_next {r : Reg} {wd : Width} {m : Mode} {w ea : Word} {s s1 t : State}
    (hea : resolveStore m w s = some (ea, s1)) (ht : storeReg r wd m w s = .next t) :
    t = writeData wd { s with inCur := s1.inCur } ea (s1.getReg r) := by
  rw [storeReg, hea] at ht
  rw [← effectiveAddress_state hea]
  cases ht
  rfl

theorem storeReg_word_frame {r : Reg} {m : Mode} {w ea : Word} {s s1 t : State}
    (hea : resolveStore m w s = some (ea, s1)) (ht : storeReg r .word m w s = .next t) :
    WordStoreFrame s t ea := by
  rw [storeReg_next hea ht]
  exact writeWord_storeFrame { s with inCur := s1.inCur } ea _

theorem storeReg_byte_frame {r : Reg} {m : Mode} {w ea : Word} {s s1 t : State}
    (hea : resolveStore m w s = some (ea, s1)) (ht : storeReg r .byte m w s = .next t) :
    ByteStoreFrame s t ea := by
  rw [storeReg_next hea ht]
  exact writeByte_storeFrame { s with inCur := s1.inCur } ea _

/-- CALL stores its return address at the lowered SP (R173). -/
theorem callTo_storeFrame (t : Word) (s : State) : WordStoreFrame s (callTo t s) (s.sp - 2) :=
  writeWord_storeFrame (s.setReg .sp (s.sp - 2)) (s.sp - 2) s.pc

/-! ### Bytes appended to StdOut -/

/-- The state after bytes appended one after another (R56). -/
def State.emitAll (s : State) (bs : List Byte) : State := bs.foldl State.emit s

theorem writeByte_outPort_foldl (s : State) (bs : List Byte) :
    bs.foldl (fun s b => writeByte s outPort b) s = s.emitAll bs := by
  simp only [writeByte_outPort, State.emitAll]

@[simp] theorem State.emitAll_nil (s : State) : s.emitAll [] = s := rfl

@[simp] theorem State.emitAll_cons (s : State) (b : Byte) (bs : List Byte) :
    s.emitAll (b :: bs) = (s.emit b).emitAll bs := rfl

/-- The cursor wraps modulo 256 (R53). -/
theorem State.emit_outCur_toNat (s : State) (b : Byte) :
    (s.emit b).outCur.toNat = (s.outCur.toNat + 1) % 256 := BitVec.toNat_add ..

/-- The entry `i` past the cursor, counted from the cursor before an appended byte and from the one
after it. -/
theorem State.emit_entry (s : State) (b : Byte) (i : Nat) :
    ((s.emit b).outCur.toNat + i) % 256 = (s.outCur.toNat + (i + 1)) % 256 := by
  rw [State.emit_outCur_toNat]
  omega

theorem State.emitAll_outCur (bs : List Byte) (s : State) :
    (s.emitAll bs).outCur.toNat = (s.outCur.toNat + bs.length) % 256 := by
  induction bs generalizing s with
  | nil => exact (Nat.mod_eq_of_lt s.outCur.isLt).symm
  | cons b bs ih => rw [State.emitAll_cons, ih, State.emit_entry, List.length_cons]

theorem State.emitAll_read_other (bs : List Byte) (s : State) {k : Nat}
    (h : ∀ i, i < bs.length → k ≠ (s.outCur.toNat + i) % 256) :
    (s.emitAll bs).stdOut.read k = s.stdOut.read k := by
  induction bs generalizing s with
  | nil => rfl
  | cons b bs ih =>
    have hcur : k ≠ s.outCur.toNat := Nat.mod_eq_of_lt s.outCur.isLt ▸ h 0 (Nat.zero_lt_succ _)
    have hrest : ∀ i, i < bs.length → k ≠ ((s.emit b).outCur.toNat + i) % 256 := fun i hi =>
      State.emit_entry s b i ▸ h (i + 1) (Nat.succ_lt_succ hi)
    rw [State.emitAll_cons, ih _ hrest]
    exact Memory.read_write_other s.stdOut b hcur

/-- As long as the ring does not overtake itself, each byte stands at its own entry. -/
theorem State.emitAll_read (bs : List Byte) (s : State) (hlen : bs.length ≤ 256) {i : Nat}
    (hi : i < bs.length) :
    bs[i]? = some ((s.emitAll bs).stdOut.read ((s.outCur.toNat + i) % 256)) := by
  induction bs generalizing s i with
  | nil => cases hi
  | cons b bs ih =>
    rw [List.length_cons] at hlen hi
    rw [State.emitAll_cons]
    cases i with
    | zero =>
      have hlt : s.outCur.toNat < 256 := s.outCur.isLt
      have hpast : ∀ j, j < bs.length → s.outCur.toNat ≠ ((s.emit b).outCur.toNat + j) % 256 := by
        intro j hj
        rw [State.emit_entry]
        omega
      rw [Nat.add_zero, Nat.mod_eq_of_lt hlt, State.emitAll_read_other bs _ hpast]
      exact congrArg some (Memory.read_write_same s.stdOut _ b).symm
    | succ i =>
      rw [List.getElem?_cons_succ, ← State.emit_entry s b i]
      exact ih _ (by omega) (by omega)

/-- Appended bytes change StdOut and its cursor alone (R56). -/
theorem State.emitAll_state (bs : List Byte) (s : State) :
    { s.emitAll bs with stdOut := s.stdOut, outCur := s.outCur } = s := by
  induction bs generalizing s with
  | nil => rfl
  | cons b bs ih =>
    exact congrArg (fun t : State => { t with stdOut := s.stdOut, outCur := s.outCur }) (ih (s.emit b))

/-! ### The obligations of the memory family -/

/-- Settles O25: the opcode is the byte read at PC, the operand the word read past it. -/
theorem storedBytesAreFetched : Obligations.StoredBytesAreFetched := by
  constructor
  · intro s b h
    rw [fetch_opCode, writeByte_pc]
    exact readByte_writeByte_same s b h
  · intro s u h h1 h2 hop
    have hlo : s.pc + 1 + 1 = s.pc + 2 := BitVec.add_assoc s.pc 1 1
    rw [← hlo] at h2
    have hopcode : (writeWord s (s.pc + 1) u).ram.read s.pc.toNat = s.ram.read s.pc.toNat :=
      writeWord_read_other s u (address_ne_next s.pc) (address_ne_next_next s.pc)
    have hreq : requiresOperand ((writeWord s (s.pc + 1) u).ram.read s.pc.toNat) = true :=
      hopcode ▸ requiresOperand_eq_true.mpr hop
    calc (fetch (writeWord s (s.pc + 1) u)).operand
        = (readWord (writeWord s (s.pc + 1) u) (s.pc + 1)).1 :=
          fetch_operand_of_ne (writeWord_pc s (s.pc + 1) u) h h1.1 h2.1 hreq
      _ = u := readWord_writeWord s u h1 h2

/-- Settles O29: the bytes of a word write read back at its two addresses. -/
theorem wordRoundTripIsBigEndian : Obligations.WordRoundTripIsBigEndian := by
  intro s a u h h'
  refine ⟨readWord_writeWord s u h h', ?_, ?_⟩
  · rw [readByte_writeWord_high s u h, highByte_toNat]
  · rw [readByte_writeWord_low s u h', lowByte_toNat]

/-- Settles O30: a later write elsewhere leaves the byte, which the first write put there. -/
theorem ramReadsLatestWrite : Obligations.RamReadsLatestWrite := by
  intro s a i b b' hne
  refine ⟨fun h => ⟨readByte_writeByte_same s b h, ?_⟩, readByte_writeByte_other s b hne⟩
  rw [readByte_writeByte_other _ b' hne.symm, readByte_writeByte_same s b h]

/-- Settles O31: the facts of `State.emitAll`, each by induction on the bytes. -/
theorem outputBytesStandInOrder : Obligations.OutputBytesStandInOrder := by
  intro bs s hlen
  rw [writeByte_outPort_foldl]
  exact ⟨State.emitAll_outCur bs s, fun _ => State.emitAll_read bs s hlen,
    fun _ => State.emitAll_read_other bs s, State.emitAll_state bs s⟩

/-- Settles O59: the part `memory` is kept where the instruction's row does not name it. -/
theorem nonStoringMemoryFrame : Obligations.NonStoringMemoryFrame := by
  intro i s t h hmem
  obtain ⟨hram, hout, hcur⟩ := exec_writes h .memory hmem
  exact ⟨fun a => by rw [hram], fun k => by rw [hout], hcur⟩

/-- Settles O60: each storing instruction is one data write (`writeWord_storeFrame`,
`writeByte_storeFrame`). -/
theorem storingMemoryFrame : Obligations.StoringMemoryFrame := by
  refine ⟨?_, ?_, ?_⟩
  · rintro m w ea s s1 t hea (ht | ht) <;> exact storeReg_word_frame hea ht
  · rintro m w ea s s1 t hea (ht | ht) <;> exact storeReg_byte_frame hea ht
  · rintro ix w s t ⟨⟩
    exact callTo_storeFrame (target ix w s) s

/-- Settles O26: each port on its own side, Ram on every other. -/
theorem byteAccessesAndPorts : Obligations.ByteAccessesAndPorts := by
  refine ⟨rfl, rfl, fun s => ⟨readByte_inPort s, ?_⟩, fun s a h => readByte_of_ne h, fun s b => ?_,
    fun s a b h => ⟨writeByte_read_same s b h, fun i hi => ?_, writeByte_state s b h⟩⟩
  · have hcur : (s.inCur + 1).toNat = (s.inCur.toNat + 1) % 256 := BitVec.toNat_add ..
    rw [← hcur]
    rfl
  · have hemit : writeByte s 0xFC16 b = s.emit b := writeByte_outPort s b
    rw [hemit]
    exact ⟨Memory.read_write_same .., State.emit_outCur_toNat s b,
      fun i hi => Memory.read_write_other _ _ hi, rfl⟩
  · rw [writeByte_of_ne b h]
    exact Memory.read_write_other _ _ hi

/-- Settles O27: 0xFC15 is not the output port and 0xFC16 not the input port. -/
theorem otherPortDirectionIsRam : Obligations.OtherPortDirectionIsRam := by
  intro s b
  have hin : (0xFC15 : Word) ≠ outPort := by decide
  have hout : (0xFC16 : Word) ≠ inPort := by decide
  refine ⟨writeByte_read_same s b hin, writeByte_state s b hin, ?_, readByte_of_ne hout⟩
  rw [writeByte_of_ne b hin]
  rfl

/-- Settles O28: the accesses by definition, the byte order by its numbers. -/
theorem wordAccessIsTwoByteAccesses : Obligations.WordAccessIsTwoByteAccesses :=
  ⟨fun _ _ => rfl, fun _ _ _ => rfl, wordOfBytes_toNat,
    fun u => ⟨highByte_toNat u, lowByte_toNat u⟩, rfl⟩

end Sys2Proof.Machine

/-! ## The encoding family: decoding, encoding and the opcode table (30_encoding.md)

What the decoder does with an opcode is said once, in `decodeOp_cases`: the four ranges, with the fields
each takes from the opcode byte. Encoding and the rows of the table then follow range by range. -/

namespace Sys2Proof

/-! ### The fields of the opcode byte -/

theorem Index.code_ofCode {n : Nat} (h : n < 2) : (Index.ofCode n).code.toNat = n := by
  interval_cases n <;> rfl

theorem Mode.code_ofCode {n : Nat} (h : n < 8) : (Mode.ofCode n).code.toNat = n := by
  interval_cases n <;> rfl

theorem Index.code_lt (ix : Index) : ix.code.toNat < 2 := by cases ix <;> decide

theorem Mode.code_lt (m : Mode) : m.code.toNat < 8 := by cases m <;> decide

/-- The ranges of opcodes, with the fields each takes from the opcode byte (R104). -/
theorem decodeOp_cases (op : Byte) (w : Word) :
    (op.toNat < 0x12 ∧ decodeOp op w = decodeUnary op.toNat) ∨
    (∃ k ix, k < 10 ∧ op.toNat = 0x12 + 2 * k + ix.code.toNat ∧
      decodeOp op w = decodeBranch k ix w) ∨
    (0x26 ≤ op.toNat ∧ op.toNat < 0x50 ∧ decodeOp op w = decodeUnknown op w) ∨
    (∃ g m, g < 22 ∧ op.toNat = 0x50 + 8 * g + m.code.toNat ∧
      decodeOp op w = decodeGroup g m w) := by
  have hlt : op.toNat < 256 := op.isLt
  unfold decodeOp
  split
  · next h => exact .inl ⟨h, rfl⟩
  split
  · have hix := Index.code_ofCode (n := op.toNat % 2) (by omega)
    exact .inr (.inl ⟨_, _, by omega, by omega, rfl⟩)
  split
  · exact .inr (.inr (.inl ⟨by omega, by omega, rfl⟩))
  · have hm := Mode.code_ofCode (n := op.toNat % 8) (by omega)
    exact .inr (.inr (.inr ⟨_, _, by omega, by omega, rfl⟩))

/-! ### The opcode of what is decoded -/

theorem opcodeOf_decodeUnary {n : Nat} (h : n < 0x12) : (opcodeOf (decodeUnary n)).toNat = n := by
  interval_cases n <;> rfl

theorem opcodeOf_decodeBranch {k : Nat} (ix : Index) (w : Word) (h : k < 10) :
    (opcodeOf (decodeBranch k ix w)).toNat = 0x12 + 2 * k + ix.code.toNat := by
  interval_cases k <;> cases ix <;> rfl

theorem opcodeOf_decodeUnknown (op : Byte) (w : Word) : opcodeOf (decodeUnknown op w) = op := by
  unfold decodeUnknown
  split; · rfl
  split; · rfl
  split <;> rfl

theorem opcodeOf_decodeGroup {g : Nat} (m : Mode) (w : Word) (h : g < 22) :
    (opcodeOf (decodeGroup g m w)).toNat = 0x50 + 8 * g + m.code.toNat := by
  interval_cases g <;> cases m <;> rfl

/-- The decoded instruction has the opcode it was decoded from. -/
@[simp] theorem opcodeOf_decodeOp (op : Byte) (w : Word) : opcodeOf (decodeOp op w) = op := by
  apply BitVec.eq_of_toNat_eq
  obtain ⟨h, hd⟩ | ⟨k, ix, hk, hop, hd⟩ | ⟨-, -, hd⟩ | ⟨g, m, hg, hop, hd⟩ := decodeOp_cases op w
  · rw [hd, opcodeOf_decodeUnary h]
  · rw [hd, opcodeOf_decodeBranch ix w hk, hop]
  · rw [hd, opcodeOf_decodeUnknown]
  · rw [hd, opcodeOf_decodeGroup m w hg, hop]

theorem decodeUnknown_wellFormed {op : Byte} (w : Word) (h : 0x26 ≤ op.toNat) (h' : op.toNat < 0x50) :
    (decodeUnknown op w).wellFormed = true := by
  unfold decodeUnknown
  split_ifs <;> simp only [Instr.wellFormed, Bool.and_eq_true, decide_eq_true_eq] <;> omega

/-- What an opcode byte selects is well-formed (R91). -/
theorem decodeOp_wellFormed (op : Byte) (w : Word) : (decodeOp op w).wellFormed = true := by
  obtain ⟨-, hd⟩ | ⟨k, ix, -, -, hd⟩ | ⟨h, h', hd⟩ | ⟨g, m, -, -, hd⟩ := decodeOp_cases op w
  · rw [hd]; unfold decodeUnary; split <;> rfl
  · rw [hd]; unfold decodeBranch; split <;> rfl
  · rw [hd]; exact decodeUnknown_wellFormed w h h'
  · rw [hd]; unfold decodeGroup; split <;> rfl

/-! ### Decoding an instruction's own opcode -/

theorem decodeOp_of_unknown {op : Byte} (w : Word) (h : 0x26 ≤ op.toNat) (h' : op.toNat < 0x50) :
    decodeOp op w = decodeUnknown op w := by
  rw [decodeOp, if_neg (by omega), if_neg (by omega), if_pos h']

/-- The opcode of a well-formed instruction selects it, given its operand word where it has one. -/
theorem decodeOp_opcodeOf {i : Instr} (h : i.wellFormed = true) :
    decodeOp (opcodeOf i) ((operandOf i).getD 0) = i := by
  cases i
  case br ix w | brle ix w | brlt ix w | breq ix w | brne ix w | brge ix w | brgt ix w | brv ix w |
      brc ix w | call ix w =>
    rw [opcodeOf]
    cases ix <;> rfl
  case unknown26 op w | unknown28 op w | unknown30 op w | unknown40 op w =>
    simp only [Instr.wellFormed, Bool.and_eq_true, decide_eq_true_eq] at h
    rw [opcodeOf, decodeOp_of_unknown _ (by omega) (by omega), decodeUnknown]
    simp (disch := omega) only [if_pos, if_neg]
    rfl
  case addsp m w | subsp m w | adda m w | addx m w | suba m w | subx m w | anda m w | andx m w |
      ora m w | orx m w | cpwa m w | cpwx m w | cpba m w | cpbx m w | ldwa m w | ldwx m w |
      ldba m w | ldbx m w | stwa m w | stwx m w | stba m w | stbx m w =>
    rw [opcodeOf]
    cases m <;> rfl
  all_goals rfl

/-! ### Encoding -/

theorem encode_of_none {i : Instr} (h : operandOf i = none) : encode i = [opcodeOf i] := by
  rw [encode, h]

theorem encode_of_some {i : Instr} {w : Word} (h : operandOf i = some w) :
    encode i = [opcodeOf i, highByte w, lowByte w] := by
  rw [encode, h]

theorem encode_decodeOp_unary {op : Byte} (w : Word) (h : requiresOperand op = false) :
    encode (decodeOp op w) = [op] := by
  rw [encode_of_none (operandOf_decodeOp_unary w h), opcodeOf_decodeOp]

theorem encode_decodeOp_operand {op : Byte} (w : Word) (h : requiresOperand op = true) :
    encode (decodeOp op w) = [op, highByte w, lowByte w] := by
  rw [encode_of_some (operandOf_decodeOp w h), opcodeOf_decodeOp]

/-- An operand word is carried exactly where the opcode asks for one (R80). -/
theorem requiresOperand_opcodeOf {i : Instr} (h : i.wellFormed = true) :
    requiresOperand (opcodeOf i) = (operandOf i).isSome := by
  have hi := decodeOp_opcodeOf h
  cases hop : requiresOperand (opcodeOf i) with
  | false => rw [← hi, operandOf_decodeOp_unary _ hop]; rfl
  | true => rw [← hi, operandOf_decodeOp _ hop]; rfl

/-- Every way the decoder accepts a list of bytes. -/
theorem decode_ok_cases {bs rest : List Byte} {i : Instr} (h : decode bs = .ok (i, rest)) :
    (∃ op, requiresOperand op = false ∧ bs = op :: rest ∧ i = decodeOp op 0) ∨
      ∃ op hi lo, requiresOperand op = true ∧ bs = op :: hi :: lo :: rest ∧
        i = decodeOp op (wordOfBytes hi lo) := by
  cases bs with
  | nil => cases h
  | cons op bs =>
    cases hop : requiresOperand op with
    | false =>
      rw [decode_of_unary bs hop] at h
      cases h
      exact .inl ⟨op, hop, rfl, rfl⟩
    | true =>
      rw [decode, if_pos hop] at h
      match bs, h with
      | hi :: lo :: _, rfl => exact .inr ⟨op, hi, lo, hop, rfl, rfl⟩

/-- The refusal of a list too short for its opcode (assumption log 15). -/
theorem decode_of_missing {op : Byte} {bs : List Byte} (h : requiresOperand op = true)
    (hlen : bs.length < 2) : decode (op :: bs) = .error (.operandMissing op) := by
  rw [decode, if_pos h]
  match bs, hlen with
  | [], _ => rfl
  | [_], _ => rfl

/-! ### The opcode table -/

/-- A row whose mask leaves out the low `n` bits holds the opcodes that round down to its base. -/
theorem OpcodeRow.holds_of_round {r : OpcodeRow} {n b : Nat} {op : Byte}
    (hmask : r.mask = BitVec.allOnes 8 <<< n) (hbase : r.base = BitVec.ofNat 8 b)
    (h : op.toNat / 2 ^ n * 2 ^ n = b) : r.holds op = true := by
  rw [OpcodeRow.holds, hmask, hbase, ← BitVec.shiftLeft_ushiftRight, beq_iff_eq, ← BitVec.toNat_inj,
    BitVec.toNat_shiftLeft, BitVec.toNat_ushiftRight, BitVec.toNat_ofNat, Nat.shiftLeft_eq,
    Nat.shiftRight_eq_div_pow, h]

/-- The bases of two rows differ in a bit both rows look at. -/
def OpcodeRow.Apart (r r' : OpcodeRow) : Prop := r.base &&& r'.mask ≠ r'.base &&& r.mask

theorem OpcodeRow.Apart.not_both_hold {r r' : OpcodeRow} {op : Byte} (h : r.Apart r') :
    ¬(r.holds op = true ∧ r'.holds op = true) := by
  rintro ⟨hr, hr'⟩
  rw [OpcodeRow.holds, beq_iff_eq] at hr hr'
  apply h
  rw [← hr, ← hr', BitVec.and_assoc, BitVec.and_assoc, BitVec.and_comm r.mask]

theorem opcodeTable_apart : opcodeTable.Pairwise OpcodeRow.Apart := by
  unfold OpcodeRow.Apart
  decide

theorem unaryRows_decodeUnary {n : Nat} (h : n < 0x12) :
    unaryRows[n]? = some ⟨mnemonicOf (decodeUnary n), BitVec.ofNat 8 n, 0xFF⟩ := by
  interval_cases n <;> rfl

theorem branchRows_decodeBranch {k : Nat} (ix : Index) (w : Word) (h : k < 10) :
    branchRows[k]? =
      some ⟨mnemonicOf (decodeBranch k ix w), BitVec.ofNat 8 (0x12 + 2 * k), 0xFE⟩ := by
  interval_cases k <;> rfl

theorem groupRows_decodeGroup {g : Nat} (m : Mode) (w : Word) (h : g < 22) :
    (arithRows ++ dataRows)[g]? =
      some ⟨mnemonicOf (decodeGroup g m w), BitVec.ofNat 8 (0x50 + 8 * g), 0xF8⟩ := by
  interval_cases g <;> rfl

/-- The unknown opcodes fill the four rows of their range (R89). -/
theorem unknownRows_hold {op : Byte} (h : 0x26 ≤ op.toNat) (h' : op.toNat < 0x50) :
    ∃ r ∈ unknownRows, r.holds op = true ∧ r.mnemonic = "UNKNOWN" := by
  by_cases h28 : op.toNat < 0x28
  · exact ⟨⟨"UNKNOWN", 0x26, 0xFE⟩, by simp [unknownRows],
      OpcodeRow.holds_of_round (n := 1) (b := 0x26) rfl rfl (by omega), rfl⟩
  by_cases h30 : op.toNat < 0x30
  · exact ⟨⟨"UNKNOWN", 0x28, 0xF8⟩, by simp [unknownRows],
      OpcodeRow.holds_of_round (n := 3) (b := 0x28) rfl rfl (by omega), rfl⟩
  by_cases h40 : op.toNat < 0x40
  · exact ⟨⟨"UNKNOWN", 0x30, 0xF0⟩, by simp [unknownRows],
      OpcodeRow.holds_of_round (n := 4) (b := 0x30) rfl rfl (by omega), rfl⟩
  · exact ⟨⟨"UNKNOWN", 0x40, 0xF0⟩, by simp [unknownRows],
      OpcodeRow.holds_of_round (n := 4) (b := 0x40) rfl rfl (by omega), rfl⟩

theorem mnemonicOf_decodeUnknown (op : Byte) (w : Word) :
    mnemonicOf (decodeUnknown op w) = "UNKNOWN" := by
  unfold decodeUnknown
  split_ifs <;> rfl

theorem mem_opcodeTable {r : OpcodeRow} :
    r ∈ opcodeTable ↔
      r ∈ unaryRows ∨ r ∈ branchRows ∨ r ∈ unknownRows ∨ r ∈ arithRows ++ dataRows := by
  simp only [opcodeTable, List.mem_append, or_assoc]

/-- Some row of the table holds each opcode, under the decoded instruction's name. -/
theorem exists_row_of_decodeOp (op : Byte) (w : Word) :
    ∃ r ∈ opcodeTable, r.holds op = true ∧ r.mnemonic = mnemonicOf (decodeOp op w) := by
  obtain ⟨hop, hd⟩ | ⟨k, ix, hk, hop, hd⟩ | ⟨hop, hop', hd⟩ | ⟨g, m, hg, hop, hd⟩ :=
    decodeOp_cases op w
  · have hmem := List.mem_of_getElem? (unaryRows_decodeUnary hop)
    exact ⟨_, mem_opcodeTable.mpr (.inl hmem),
      OpcodeRow.holds_of_round (n := 0) rfl rfl (by omega), by rw [hd]⟩
  · have hmem := List.mem_of_getElem? (branchRows_decodeBranch ix w hk)
    have hix := ix.code_lt
    exact ⟨_, mem_opcodeTable.mpr (.inr (.inl hmem)),
      OpcodeRow.holds_of_round (n := 1) rfl rfl (by omega), by rw [hd]⟩
  · obtain ⟨r, hmem, hr, hname⟩ := unknownRows_hold hop hop'
    exact ⟨r, mem_opcodeTable.mpr (.inr (.inr (.inl hmem))), hr, by
      rw [hname, hd, mnemonicOf_decodeUnknown]⟩
  · have hmem := List.mem_of_getElem? (groupRows_decodeGroup m w hg)
    have hm := m.code_lt
    exact ⟨_, mem_opcodeTable.mpr (.inr (.inr (.inr hmem))),
      OpcodeRow.holds_of_round (n := 3) rfl rfl (by omega), by rw [hd]⟩

/-- A predicate that holds of one entry, and that no two entries can both meet, selects that entry. -/
theorem filter_eq_singleton {α : Type} {R : α → α → Prop} {p : α → Bool} {l : List α} {r : α}
    (hl : l.Pairwise R) (hR : ∀ a b, R a b → ¬(p a = true ∧ p b = true)) (hmem : r ∈ l)
    (hr : p r = true) : l.filter p = [r] := by
  have hpair : (l.filter p).Pairwise R := hl.filter p
  have hin : r ∈ l.filter p := List.mem_filter.mpr ⟨hmem, hr⟩
  have hp : ∀ a ∈ l.filter p, p a = true := fun a ha => (List.mem_filter.mp ha).2
  match hf : l.filter p, hpair, hin, hp with
  | [a], _, hin, _ => rw [List.mem_singleton.mp hin]
  | a :: b :: _, hpair, _, hp =>
    exact absurd ⟨hp a (by simp), hp b (by simp)⟩ (hR a b (List.rel_of_pairwise_cons hpair (by simp)))

end Sys2Proof

namespace Sys2Proof.Machine

/-! ### The fetched instruction -/

theorem opcodeOf_latched (s : State) : opcodeOf s.latched = s.opCode := opcodeOf_decodeOp ..

theorem operandOf_latched {s : State} {w : Word} (h : operandOf s.latched = some w) : s.operand = w := by
  cases hop : requiresOperand s.opCode with
  | false => rw [State.latched, operandOf_decodeOp_unary _ hop] at h; cases h
  | true => rw [State.latched, operandOf_decodeOp _ hop] at h; exact Option.some.inj h

/-- A fetch moves PC past the encoding of what it latched (R23, R101). -/
theorem fetch_pc_encode (s : State) :
    (fetch s).pc = s.pc + BitVec.ofNat 16 (encode (fetch s).latched).length := by
  rw [fetch_pc, ← fetch_opCode]
  cases hop : requiresOperand (fetch s).opCode with
  | false => rw [State.latched, encode_decodeOp_unary _ hop]; rfl
  | true => rw [State.latched, encode_decodeOp_operand _ hop]; rfl

/-- Clear of the input port, a fetch latches the instruction the bytes of Ram at PC decode to. -/
theorem fetch_latched_of_decode {s : State} {i : Instr} {rest : List Byte} (h : s.pc ≠ inPort)
    (h1 : s.pc + 1 ≠ inPort) (h2 : s.pc + 2 ≠ inPort)
    (hdec : decode [s.ram.read s.pc.toNat, s.ram.read (s.pc + 1).toNat,
      s.ram.read (s.pc + 2).toNat] = .ok (i, rest)) : (fetch s).latched = i := by
  obtain ⟨hshort, hlong⟩ := fetchFromRamBytes s h h1 h2
  obtain ⟨op, hop, hbs, rfl⟩ | ⟨op, hi, lo, hop, hbs, rfl⟩ := decode_ok_cases hdec
  · obtain ⟨rfl, -⟩ := List.cons.inj hbs
    rw [hshort (requiresOperand_eq_false.mp hop)]
    exact decodeOp_of_unary _ _ hop
  · cases hbs
    rw [hlong (requiresOperand_eq_true.mp hop)]
    rfl

/-! ### The obligations of the encoding family -/

/-- Settles O1: the opcode selects the instruction back (`decodeOp_opcodeOf`), in each format. -/
theorem decodeOfEncode : Obligations.DecodeOfEncode := by
  intro i rest hwf
  have hi := decodeOp_opcodeOf hwf
  have hreq := requiresOperand_opcodeOf hwf
  cases hw : operandOf i with
  | none =>
    rw [hw] at hi hreq
    rw [encode_of_none hw, List.singleton_append, decode_of_unary rest hreq]
    exact congrArg (fun j => Except.ok (j, rest)) hi
  | some w =>
    rw [hw] at hi hreq
    rw [encode_of_some hw]
    simp only [List.cons_append, List.nil_append]
    rw [decode_of_operand _ _ rest hreq, wordOfBytes_bytes]
    exact congrArg (fun j => Except.ok (j, rest)) hi

/-- Settles O2: what is accepted is `decodeOp` of the opcode byte read (`decode_ok_cases`), whose
encoding is that byte and the operand's two. -/
theorem encodeOfDecode : Obligations.EncodeOfDecode := by
  intro bs rest i h
  obtain ⟨op, hop, rfl, rfl⟩ | ⟨op, hi, lo, hop, rfl, rfl⟩ := decode_ok_cases h
  · exact ⟨decodeOp_wellFormed op 0, by rw [encode_decodeOp_unary 0 hop]; rfl⟩
  · refine ⟨decodeOp_wellFormed op _, ?_⟩
    rw [encode_decodeOp_operand _ hop, highByte_wordOfBytes, lowByte_wordOfBytes]
    rfl

/-- Settles O3: a row holds the opcode (`exists_row_of_decodeOp`), and rows apart hold no opcode
together. -/
theorem everyOpcodeHasOneRow : Obligations.EveryOpcodeHasOneRow := by
  intro op w
  obtain ⟨r, hmem, hr, hname⟩ := exists_row_of_decodeOp op w
  refine ⟨⟨r, ?_, hname⟩, decodeOp_wellFormed op w, opcodeOf_decodeOp op w⟩
  exact filter_eq_singleton opcodeTable_apart (fun _ _ h => h.not_both_hold) hmem hr

/-- Settles O5: the decoder's equation for each format and for a list too short. -/
theorem lengthIsDecidedByOpcode : Obligations.LengthIsDecidedByOpcode := by
  refine fun op bs => ⟨fun h => ⟨_, decode_of_unary bs (requiresOperand_eq_false.mpr h)⟩, fun h => ?_⟩
  have hop := requiresOperand_eq_true.mpr h
  refine ⟨?_, decode_of_missing hop⟩
  rintro hi lo rest rfl
  exact ⟨_, decode_of_operand hi lo rest hop, operandOf_decodeOp _ hop⟩

/-- Settles O6: eight evaluations of the decoder. -/
theorem writtenOutWordsDecode : Obligations.WrittenOutWordsDecode := by
  unfold Obligations.WrittenOutWordsDecode
  decide

/-- Settles O14: the fetch latches the instruction (`fetch_latched_of_decode`), and a step runs what is
latched (O13). -/
theorem stepRunsInstructionInRam : Obligations.StepRunsInstructionInRam := by
  intro s i rest hs h h1 h2 hdec
  obtain rfl := fetch_latched_of_decode h h1 h2 hdec
  exact ⟨(opcodeOf_latched _).symm, fun _ => operandOf_latched, fetch_pc_encode s,
    stepRunsLatchedInstruction s hs⟩

/-- Settles O57: the instructions whose own verdict is a fatal error (`exec_answers`). -/
theorem fatalInstructionsFault : Obligations.FatalInstructionsFault :=
  ⟨fun op w s => ⟨exec_answers (.unknown26 op w) s, exec_answers (.unknown28 op w) s,
      exec_answers (.unknown30 op w) s, exec_answers (.unknown40 op w) s⟩,
    fun w s => ⟨exec_answers (.stwa .immediate w) s, exec_answers (.stwx .immediate w) s,
      exec_answers (.stba .immediate w) s, exec_answers (.stbx .immediate w) s⟩⟩

end Sys2Proof.Machine

/-! ## The dispatch family: fetch, the decoder's ranges and the loop's predicate (40_fetch_decode_dispatch.md)

The loop's predicate is read through `State.continues_iff`, and a step that fetches opcode 0x00 through
`step_of_halt`: it is the fetch and the loop's test alone. -/

namespace Sys2Proof

/-! ### The instruction of an opcode -/

/-- An opcode selects the well-formed instruction that has it and carries the operand word. -/
theorem decodeOp_eq {i : Instr} {op : Byte} {w : Word} (hwf : i.wellFormed = true)
    (hop : opcodeOf i = op) (hw : (operandOf i).getD 0 = w) : decodeOp op w = i := by
  subst hop hw
  exact decodeOp_opcodeOf hwf

end Sys2Proof

namespace Sys2Proof.Machine

/-! ### The two formats of a fetch -/

/-- Below 0x12 a fetch is its first half (R101, R102). -/
theorem fetch_of_unary {s : State} (h : requiresOperand (readByte s s.pc).1 = false) :
    fetch s = fetchOpcode s := by
  rw [fetch, fetchOpcode, State.setPc_opCode, State.setOpCode_opCode, h, if_neg Bool.false_ne_true]

/-- From 0x12 on the operand follows (R101). -/
theorem fetch_of_operand {s : State} (h : requiresOperand (readByte s s.pc).1 = true) :
    fetch s = fetchOperand (fetchOpcode s) := by
  rw [fetch, fetchOpcode, State.setPc_opCode, State.setOpCode_opCode, h, if_pos rfl]

/-! ### The loop's predicate -/

theorem State.continues_iff (s : State) :
    s.continues = true ↔ (s.halt = false ∧ s.opCode ≠ 0x00) ∨ s.pc = 0x0000 := by
  simp [State.continues]

theorem State.continues_of_halt_false {s : State} (h : s.halt = false) :
    s.continues = true ↔ s.opCode ≠ 0x00 ∨ s.pc = 0x0000 := by
  simp [State.continues_iff, h]

theorem State.continues_of_pc_zero {s : State} (h : s.pc = 0x0000) : s.continues = true :=
  s.continues_iff.mpr (.inr h)

/-- With opcode 0x00 and PC not 0x0000 the loop ends, whatever the flag HALT holds. -/
theorem State.not_continues {s : State} (hop : s.opCode = 0x00) (hpc : s.pc ≠ 0x0000) :
    s.continues = false := by
  rw [← Bool.not_eq_true, State.continues_iff]
  rintro (⟨-, hne⟩ | hzero)
  · exact hne hop
  · exact hpc hzero

theorem State.testLoop_of_continues {s : State} (h : s.continues = true) :
    s.testLoop = { s with status := .continuing } := by
  rw [State.testLoop, if_pos h]

theorem State.testLoop_of_not_continues {s : State} (h : s.continues = false) :
    s.testLoop = { s with status := .halted } := by
  rw [State.testLoop, h, if_neg Bool.false_ne_true]

/-! ### A fetched HALT -/

/-- Settles O37: the decoder's entry for 0x00 and the meaning of HALT. -/
theorem haltIsNoOp : Obligations.HaltIsNoOp := ⟨fun _ => rfl, fun _ => rfl⟩

/-- A step that fetches opcode 0x00 is the fetch and the loop's test (R110, R170). -/
theorem step_of_halt {s : State} (hs : s.status = .continuing) (hop : (fetch s).opCode = 0x00) :
    step s = .next (fetch s).testLoop := by
  obtain ⟨hdecode, hexec⟩ := haltIsNoOp
  rw [step_continuing hs, cycle, State.latched, hop, hdecode, hexec, settle]

/-- A HALT's fetch from Ram (R101). -/
theorem fetch_of_ram_zero {s : State} (hport : s.pc ≠ inPort)
    (hram : s.ram.read s.pc.toNat = 0x00) :
    fetch s = { s with opCode := 0x00, pc := s.pc + 1 } := by
  have hread : readByte s s.pc = (0x00, s) := by rw [readByte_of_ne hport, hram]
  rw [fetch_of_unary (by rw [hread]; rfl), fetchOpcode, hread]
  rfl

/-- A HALT's fetch moves PC by 1, from the input port too (R101). -/
theorem fetch_pc_of_halt {s : State} (hop : (fetch s).opCode = 0x00) : (fetch s).pc = s.pc + 1 := by
  rw [fetch_pc, ← fetch_opCode, hop]
  rfl

/-- What a step leaves in OpCode is what it fetched; where that is 0x00, the step was a HALT's. -/
theorem eq_testLoop_fetch_of_step_opCode_zero {s t : State} (hs : s.status = .continuing)
    (h : step s = .next t) (hop : t.opCode = 0x00) :
    (fetch s).opCode = 0x00 ∧ t = (fetch s).testLoop := by
  obtain ⟨u, hu, rfl⟩ := step_next_of_continuing hs h
  have hfetched : (fetch s).opCode = 0x00 := (exec_keeps hu).opCode.symm.trans hop
  rw [step_of_halt hs hfetched] at h
  exact ⟨hfetched, (Host.Outcome.next.inj h).symm⟩

/-! ### The items of R111 -/

/-- Item 2 of R111: only an opcode 0x00 can end the run. -/
theorem status_of_step_opCode_ne_zero {s t : State} (hs : s.status = .continuing)
    (hhalt : s.halt = false) (h : step s = .next t) (hop : t.opCode ≠ 0x00) :
    t.status = .continuing := by
  obtain ⟨u, hu, rfl⟩ := step_next_of_continuing hs h
  have hfalse : u.halt = false := (exec_keeps hu).halt.trans ((fetch_halt s).trans hhalt)
  rw [State.testLoop_of_continues (u.continues_iff.mpr (.inl ⟨hfalse, hop⟩))]

/-- Items 3 and 4 of R111: a HALT ends the run unless PC wraps to 0x0000. -/
theorem status_of_step_opCode_zero {s t : State} (hs : s.status = .continuing)
    (h : step s = .next t) (hop : t.opCode = 0x00) :
    t.pc = s.pc + 1 ∧ (s.pc ≠ 0xFFFF → t.status = .halted) ∧
      (s.pc = 0xFFFF → t.pc = 0x0000 ∧ t.status = .continuing) := by
  obtain ⟨hfetched, rfl⟩ := eq_testLoop_fetch_of_step_opCode_zero hs h hop
  have hpc := fetch_pc_of_halt hfetched
  refine ⟨hpc, fun hne => ?_, fun heq => ?_⟩
  · have hpast : (fetch s).pc ≠ 0x0000 := by rw [hpc]; bv_omega
    rw [State.testLoop_of_not_continues (State.not_continues hfetched hpast)]
  · have hwrap : (fetch s).pc = 0x0000 := by rw [hpc, heq]; rfl
    exact ⟨hwrap, by rw [State.testLoop_of_continues (State.continues_of_pc_zero hwrap)]⟩

/-- Item 6 of R111: no step is run. -/
theorem run_of_not_continues {s : State} (fuel : Nat) (h : s.continues = false) :
    run fuel s = .halted { s with status := .halted } := by
  rw [run, runLoop_of_stop fuel ((testLoop_continues s).trans h), State.testLoop_of_not_continues h]

/-- Item 5 of R111: a run from PC 0x0000 with 0x00 there is the step of that HALT. -/
theorem run_of_halt_at_zero {s : State} (fuel : Nat) (hpc : s.pc = 0x0000)
    (hram : s.ram.read 0 = 0x00) :
    run (fuel + 1) s = .halted { s with opCode := 0x00, pc := 0x0001, status := .halted } := by
  have henter : s.continues = true := State.continues_of_pc_zero hpc
  have hport : s.testLoop.pc ≠ inPort := by rw [State.testLoop_pc, hpc]; decide
  have hread : s.testLoop.ram.read s.testLoop.pc.toNat = 0x00 := by
    rw [State.testLoop_ram, State.testLoop_pc, hpc]; exact hram
  have hfetch : fetch s.testLoop = { s.testLoop with opCode := 0x00, pc := 0x0001 } := by
    rw [fetch_of_ram_zero hport hread, State.testLoop_pc, hpc]; rfl
  have hop : (fetch s.testLoop).opCode = 0x00 := by rw [hfetch]
  have hstop : (fetch s.testLoop).continues = false :=
    State.not_continues hop (by simp [hfetch])
  have hstep := step_of_halt (by rw [State.testLoop_of_continues henter]) hop
  calc run (fuel + 1) s = runLoop fuel (fetch s.testLoop).testLoop :=
        runLoop_succ_of_next fuel henter hstep
    _ = .halted (fetch s.testLoop).testLoop := runLoop_of_stop fuel hstop
    _ = _ := by rw [State.testLoop_of_not_continues hstop, hfetch]; rfl

/-! ### The obligations of the dispatch family -/

/-- Settles O11: the two halves of the fetch (`fetch_of_unary`, `fetch_of_operand`). -/
theorem fetchLatchesInstruction : Obligations.FetchLatchesInstruction := by
  intro s p s1
  have hfirst : fetchOpcode s = s1 := rfl
  refine ⟨fun h => ?_, fun h => ?_⟩
  · rw [fetch_of_unary (requiresOperand_eq_false.mpr h), hfirst]
  · rw [fetch_of_operand (requiresOperand_eq_true.mpr h), hfirst]
    rfl

/-- Settles O4: below 0x12 by evaluation; in the other ranges each opcode is its instruction's own, and
selects it back (`decodeOp_eq`). -/
theorem decoderFollowsOpcodeRanges : Obligations.DecoderFollowsOpcodeRanges := by
  refine ⟨fun w => ?unary, fun ix w => ?branch, fun op w => ?unknown, fun m w => ?group⟩
  case unary => and_intros <;> rfl
  case branch => and_intros <;> exact decodeOp_eq rfl rfl rfl
  case group => and_intros <;> exact decodeOp_eq rfl rfl rfl
  case unknown =>
    and_intros <;> intro hlo hhi <;> exact decodeOp_eq (by simp [Instr.wellFormed, hlo, hhi]) rfl rfl

/-- Settles O16: the predicate as a proposition. -/
theorem loopPredicateIsLiteral : Obligations.LoopPredicateIsLiteral :=
  fun s => ⟨s.continues_iff, State.continues_of_halt_false⟩

/-- Settles O17: item 1 is the PC `Initialize` writes, and each other item a lemma above. -/
theorem loopConsequences : Obligations.LoopConsequences :=
  ⟨fun _ => State.continues_of_pc_zero rfl,
    fun _ _ => status_of_step_opCode_ne_zero,
    fun _ _ hs _ => status_of_step_opCode_zero hs,
    fun _ fuel _ => run_of_halt_at_zero fuel,
    fun _ fuel hop hpc => run_of_not_continues fuel (State.not_continues hop hpc)⟩

end Sys2Proof.Machine

/-! ## The addressing-modes family: the resolver on Ram, and a store read back (41_addressing_modes.md)

Clear of the input port an effective address is a function of SP, X and the pointer cell (`ramAddress`),
and a read there changes nothing; so a load finds what a store put there while these stand. -/

namespace Sys2Proof.Machine

/-! ### Data of either width in Ram -/

/-- The addresses an access of each width touches (R57). -/
def Width.bytesAt : Width → Word → List Word
  | .byte, a => [a]
  | .word, a => [a, a + 1]

/-- What `readData` takes from Ram: the big-endian word, or the byte zero-extended (R131). -/
def ramData (wd : Width) (s : State) (a : Word) : Word :=
  match wd with
  | .byte => (s.ram.read a.toNat).setWidth 16
  | .word => ramWord s a

/-- What an access of each width keeps of a word: all of it, or its low byte zero-extended. -/
def Width.narrow : Width → Word → Word
  | .byte, u => (lowByte u).setWidth 16
  | .word, u => u

theorem Width.forall_bytesAt_byte {P : Word → Prop} {a : Word} :
    (∀ i ∈ Width.byte.bytesAt a, P i) ↔ P a := List.forall_mem_singleton

theorem Width.forall_bytesAt_word {P : Word → Prop} {a : Word} :
    (∀ i ∈ Width.word.bytesAt a, P i) ↔ P a ∧ P (a + 1) :=
  List.forall_mem_cons.trans (and_congr_right' List.forall_mem_singleton)

theorem Width.notMem_bytesAt_byte {i a : Word} : i ∉ Width.byte.bytesAt a ↔ i ≠ a := by
  simp [Width.bytesAt]

theorem Width.notMem_bytesAt_word {i a : Word} :
    i ∉ Width.word.bytesAt a ↔ i ≠ a ∧ i ≠ a + 1 := by
  simp [Width.bytesAt]

/-- Clear of the input port a data read takes Ram and changes nothing. -/
theorem readData_of_ne {wd : Width} {s : State} {a : Word} (h : ∀ i ∈ wd.bytesAt a, i ≠ inPort) :
    readData wd s a = (ramData wd s a, s) := by
  cases wd with
  | byte =>
    have ha : a ≠ inPort := h a (List.mem_singleton_self a)
    simp only [readData, readByte_of_ne ha, ramData]
  | word =>
    obtain ⟨hhi, hlo⟩ := Width.forall_bytesAt_word.mp h
    exact readWord_of_ne hhi hlo

/-- Clear of the ports a data write puts what its width keeps of the value into Ram. -/
theorem ramData_writeData {wd : Width} (s : State) {a : Word} (u : Word)
    (h : ∀ i ∈ wd.bytesAt a, clearOfPorts i) : ramData wd (writeData wd s a u) a = wd.narrow u := by
  cases wd with
  | byte =>
    obtain ⟨-, hout⟩ := Width.forall_bytesAt_byte.mp h
    exact congrArg (·.setWidth 16) (writeByte_read_same s (lowByte u) hout)
  | word =>
    obtain ⟨hhi, hlo⟩ := Width.forall_bytesAt_word.mp h
    have hread := readWord_writeWord s u hhi hlo
    rwa [readWord_of_ne hhi.1 hlo.1] at hread

theorem writeData_read_other {wd : Width} (s : State) {a i : Word} (u : Word)
    (h : i ∉ wd.bytesAt a) : (writeData wd s a u).ram.read i.toNat = s.ram.read i.toNat := by
  cases wd with
  | byte => exact writeByte_read_other s _ (Width.notMem_bytesAt_byte.mp h)
  | word =>
    obtain ⟨hhi, hlo⟩ := Width.notMem_bytesAt_word.mp h
    exact writeWord_read_other s u hhi hlo

/-- A data write leaves every word of Ram that shares no byte with it. -/
theorem ramWord_writeData_other {wd : Width} (s : State) {a p : Word} (u : Word)
    (h : ∀ i ∈ Width.word.bytesAt p, i ∉ wd.bytesAt a) :
    ramWord (writeData wd s a u) p = ramWord s p := by
  obtain ⟨hhi, hlo⟩ := Width.forall_bytesAt_word.mp h
  rw [ramWord, writeData_read_other s u hhi, writeData_read_other s u hlo, ramWord]

/-! ### N and Z of a zero-extended byte -/

theorem isNegative_setWidth (b : Byte) : isNegative (b.setWidth 16) = false := by
  simp [isNegative]

theorem isZero_setWidth (b : Byte) : isZero (b.setWidth 16) = decide (b = 0) := by
  have hiff : b.setWidth 16 = (0 : Word) ↔ b = 0 := by bv_omega
  simp only [isZero, beq_eq_decide, hiff]

/-! ### The effective address, as Ram gives it -/

/-- The effective address of a mode (R130), its pointer read from Ram; none in immediate mode. -/
def ramAddress (m : Mode) (w : Word) (s : State) : Option Word :=
  match m with
  | .immediate => none
  | .direct => some w
  | .indirect => some (ramWord s w)
  | .stackRelative => some (s.sp + w)
  | .stackDeferred => some (ramWord s (s.sp + w))
  | .indexed => some (w + s.x)
  | .stackIndexed => some (s.sp + w + s.x)
  | .stackDeferredIndexed => some (ramWord s (s.sp + w + s.x))

/-- The pointer cell of the mode, if it has one, is clear of the input port. -/
def PointerClear (m : Mode) (w : Word) (s : State) : Prop :=
  ∀ p, pointerCell m w s = some p → p ≠ inPort ∧ p + 1 ≠ inPort

theorem effectiveAddress_of_pointerClear {m : Mode} {w : Word} {s : State} (h : PointerClear m w s) :
    effectiveAddress m w s = (ramAddress m w s).map fun ea => (ea, s) := by
  cases m
  case immediate | direct | stackRelative | indexed | stackIndexed => rfl
  case indirect | stackDeferred | stackDeferredIndexed =>
    obtain ⟨hp, hp'⟩ := h _ rfl
    exact congrArg some (readWord_of_ne hp hp')

theorem effectiveAddress_of_ramAddress {m : Mode} {w ea : Word} {s : State} (h : PointerClear m w s)
    (hea : ramAddress m w s = some ea) : effectiveAddress m w s = some (ea, s) := by
  rw [effectiveAddress_of_pointerClear h, hea, Option.map_some]

/-- With the pointer cell clear, resolving an address reads no port and leaves the state alone. -/
theorem ramAddress_of_effectiveAddress {m : Mode} {w ea : Word} {s s1 : State}
    (h : PointerClear m w s) (hea : effectiveAddress m w s = some (ea, s1)) :
    ramAddress m w s = some ea ∧ s1 = s := by
  rw [effectiveAddress_of_pointerClear h, Option.map_eq_some_iff] at hea
  obtain ⟨_, hram, ⟨⟩⟩ := hea
  exact ⟨hram, rfl⟩

theorem pointerCell_congr {m : Mode} (w : Word) {s t : State} (hsp : t.sp = s.sp) (hx : t.x = s.x) :
    pointerCell m w t = pointerCell m w s := by
  simp only [pointerCell, hsp, hx]

/-- The address depends on SP, X and the pointer cell alone. -/
theorem ramAddress_congr {m : Mode} {w : Word} {s t : State} (hsp : t.sp = s.sp) (hx : t.x = s.x)
    (hcell : ∀ p, pointerCell m w s = some p → ramWord t p = ramWord s p) :
    ramAddress m w t = ramAddress m w s := by
  cases m
  case immediate | direct => rfl
  case stackRelative | indexed | stackIndexed => simp only [ramAddress, hsp, hx]
  case indirect | stackDeferred | stackDeferredIndexed =>
    simp only [ramAddress, hsp, hx, hcell _ rfl]

/-! ### The load path -/

/-- Outside immediate mode: the data at the address, and N and Z from it (R131). -/
theorem resolveLoad_of_effectiveAddress (cfg : Config) {m : Mode} (wd : Width) {w ea : Word}
    {s s1 : State} (h : effectiveAddress m w s = some (ea, s1)) :
    resolveLoad cfg m wd w s =
      ((readData wd s1 ea).1, (readData wd s1 ea).2.setNZ (readData wd s1 ea).1) := by
  simp only [resolveLoad, loadValue, h]

theorem resolveLoad_immediate (cfg : Config) (wd : Width) (w : Word) (s : State) :
    resolveLoad cfg .immediate wd w s =
      (immediateValue cfg.byteImm wd w, s.setNZ (immediateValue cfg.byteImm wd w)) := rfl

theorem resolveLoad_of_ramAddress (cfg : Config) {m : Mode} {wd : Width} {w ea : Word} {s : State}
    (hptr : PointerClear m w s) (hea : ramAddress m w s = some ea)
    (hdata : ∀ i ∈ wd.bytesAt ea, i ≠ inPort) :
    resolveLoad cfg m wd w s = (ramData wd s ea, s.setNZ (ramData wd s ea)) := by
  rw [resolveLoad_of_effectiveAddress cfg wd (effectiveAddress_of_ramAddress hptr hea),
    readData_of_ne hdata]

/-! ### A load after a store -/

/-- The provisos of R138 on a store at `ea`: no byte involved is a port's, and the store leaves its own
pointer cell alone. -/
structure StoreProvisos (wd : Width) (m : Mode) (w ea : Word) (s : State) : Prop where
  data : ∀ i ∈ wd.bytesAt ea, clearOfPorts i
  pointer : PointerClear m w s
  apart : ∀ p, pointerCell m w s = some p → ∀ i ∈ Width.word.bytesAt p, i ∉ wd.bytesAt ea

theorem storeProvisos_word {m : Mode} {w ea : Word} {s : State} (hhi : clearOfPorts ea)
    (hlo : clearOfPorts (ea + 1))
    (hcell : ∀ p, pointerCell m w s = some p → clearOfPorts p ∧ clearOfPorts (p + 1) ∧
      p ≠ ea ∧ p ≠ ea + 1 ∧ p + 1 ≠ ea) : StoreProvisos .word m w ea s := by
  refine ⟨Width.forall_bytesAt_word.mpr ⟨hhi, hlo⟩, fun p hp => ?pointer, fun p hp => ?apart⟩ <;>
    obtain ⟨⟨hin, -⟩, ⟨hin', -⟩, hne, hne', hne''⟩ := hcell p hp
  case pointer => exact ⟨hin, hin'⟩
  case apart =>
    rw [Width.forall_bytesAt_word, Width.notMem_bytesAt_word, Width.notMem_bytesAt_word]
    exact ⟨⟨hne, hne'⟩, hne'', by simpa using hne⟩

theorem storeProvisos_byte {m : Mode} {w ea : Word} {s : State} (hdata : clearOfPorts ea)
    (hcell : ∀ p, pointerCell m w s = some p → clearOfPorts p ∧ clearOfPorts (p + 1) ∧
      p ≠ ea ∧ p + 1 ≠ ea) : StoreProvisos .byte m w ea s := by
  refine ⟨Width.forall_bytesAt_byte.mpr hdata, fun p hp => ?pointer, fun p hp => ?apart⟩ <;>
    obtain ⟨⟨hin, -⟩, ⟨hin', -⟩, hne, hne'⟩ := hcell p hp
  case pointer => exact ⟨hin, hin'⟩
  case apart =>
    rw [Width.forall_bytesAt_word, Width.notMem_bytesAt_byte, Width.notMem_bytesAt_byte]
    exact ⟨hne, hne'⟩

/-- The provisos of R138 between the store, which left `t`, and the load, which finds `t'`. -/
structure StoreStands (wd : Width) (m : Mode) (w ea : Word) (s t t' : State) : Prop where
  sp : t'.sp = t.sp
  x : t'.x = t.x
  data : ramData wd t' ea = ramData wd t ea
  pointer : ∀ p, pointerCell m w s = some p → ramWord t' p = ramWord t p

theorem storeReg_of_ramAddress {wd : Width} {m : Mode} {w ea : Word} {s : State} (r : Reg)
    (hptr : PointerClear m w s) (hea : ramAddress m w s = some ea) :
    storeReg r wd m w s = .next (writeData wd s ea (s.getReg r)) := by
  rw [storeReg, resolveStore, effectiveAddress_of_ramAddress hptr hea]

/-- The address still resolves to `ea`, where the value stored still stands. -/
theorem loadReg_after_writeData (cfg : Config) (r : Reg) {wd : Width} {m : Mode} {w ea u : Word}
    {s t' : State} (h : StoreProvisos wd m w ea s) (hea : ramAddress m w s = some ea)
    (hs : StoreStands wd m w ea s (writeData wd s ea u) t') :
    (loadReg cfg r wd m w t').getReg r = wd.narrow u := by
  have hsp : t'.sp = s.sp := hs.sp.trans (writeData_sp wd s ea u)
  have hx : t'.x = s.x := hs.x.trans (writeData_x wd s ea u)
  have hcell : ∀ p, pointerCell m w s = some p → ramWord t' p = ramWord s p := fun p hp =>
    (hs.pointer p hp).trans (ramWord_writeData_other s u (h.apart p hp))
  have hea' : ramAddress m w t' = some ea := (ramAddress_congr hsp hx hcell).trans hea
  have hptr' : PointerClear m w t' := fun p hp =>
    h.pointer p ((pointerCell_congr w hsp hx).symm.trans hp)
  calc (loadReg cfg r wd m w t').getReg r
      = (resolveLoad cfg m wd w t').1 := State.getReg_setReg_same ..
    _ = ramData wd t' ea := by
        rw [resolveLoad_of_ramAddress cfg hptr' hea' fun i hi => (h.data i hi).1]
    _ = ramData wd (writeData wd s ea u) ea := hs.data
    _ = wd.narrow u := ramData_writeData s u h.data

/-! ### The obligations of the addressing-modes family -/

/-- Settles O48: the two paths by definition, immediate mode by `P_BYTE_IMM`. -/
theorem resolverPaths : Obligations.ResolverPaths := by
  refine ⟨fun _ _ => ?addresses, fun cfg w s => ⟨rfl, fun himm => ?full, fun himm => ?low⟩,
    fun cfg m w ea s s1 hea => ?load, fun _ _ _ => rfl, fun _ _ _ _ => rfl⟩
  case addresses => exact ⟨rfl, rfl, rfl, rfl, rfl, rfl, rfl, rfl⟩
  case full | low => rw [resolveLoad_immediate, himm]; rfl
  case load =>
    exact ⟨resolveLoad_of_effectiveAddress cfg .word hea, resolveLoad_of_effectiveAddress cfg .byte hea⟩

/-- Settles O49: each mode's address is `ramAddress`, and the load path reads Ram there. -/
theorem modesReadRam : Obligations.ModesReadRam := by
  intro cfg m w ea s hptr hmode
  have hea : ramAddress m w s = some ea := by
    rcases hmode with ⟨rfl, rfl⟩ | ⟨rfl, rfl⟩ | ⟨rfl, rfl⟩ | ⟨rfl, rfl⟩ | ⟨rfl, rfl⟩ | ⟨rfl, rfl⟩ |
      ⟨rfl, rfl⟩ <;> rfl
  refine ⟨fun h h' => ?word, fun h => ?byte⟩
  case word =>
    have hdata : ∀ i ∈ Width.word.bytesAt ea, i ≠ inPort := Width.forall_bytesAt_word.mpr ⟨h, h'⟩
    exact resolveLoad_of_ramAddress cfg hptr hea hdata
  case byte =>
    have hdata : ∀ i ∈ Width.byte.bytesAt ea, i ≠ inPort := Width.forall_bytesAt_byte.mpr h
    rw [resolveLoad_of_ramAddress cfg hptr hea hdata, ramData, State.setNZ, isNegative_setWidth,
      isZero_setWidth]

/-- Settles O55: at each width its hypotheses are the provisos of `loadReg_after_writeData`. -/
theorem storeThenLoadReturnsValue : Obligations.StoreThenLoadReturnsValue := by
  refine ⟨fun m w ea s s1 hstore hhi hlo hcell => ?word, fun m w ea s s1 hstore hdata hcell => ?byte⟩
  case word =>
    have h : StoreProvisos .word m w ea s := storeProvisos_word hhi hlo hcell
    obtain ⟨hea, rfl⟩ := ramAddress_of_effectiveAddress h.pointer hstore
    refine ⟨_, _, storeReg_of_ramAddress .a h.pointer hea, storeReg_of_ramAddress .x h.pointer hea,
      ?fromA, ?fromX⟩
    all_goals
      intro t' hsp hx hram hptr
      have hload (r : Reg) := loadReg_after_writeData config r h hea ⟨hsp, hx, hram, hptr⟩
    case fromA => exact ⟨_, _, rfl, hload .a, rfl, hload .x⟩
    case fromX => exact ⟨_, _, rfl, hload .x, rfl, hload .a⟩
  case byte =>
    have h : StoreProvisos .byte m w ea s := storeProvisos_byte hdata hcell
    obtain ⟨hea, rfl⟩ := ramAddress_of_effectiveAddress h.pointer hstore
    refine ⟨_, _, storeReg_of_ramAddress .a h.pointer hea, storeReg_of_ramAddress .x h.pointer hea,
      ?fromA, ?fromX⟩
    all_goals
      intro t' hsp hx hram hptr
      have hload (r : Reg) :=
        loadReg_after_writeData config r h hea ⟨hsp, hx, congrArg (·.setWidth 16) hram, hptr⟩
    case fromA => exact ⟨_, _, rfl, hload .a, rfl, hload .x⟩
    case fromX => exact ⟨_, _, rfl, hload .x, rfl, hload .a⟩

end Sys2Proof.Machine

/-! ## The flags and the arithmetic-logic unit (42_flag_alu.md)

The shifts and rotates are the library's bit-vector operations, overflow is its signed overflow; what
they say of numbers follows. A rotate moves every place of a circle of 17 bits by one, so seventeen
rotates are the identity. -/

namespace Sys2Proof.Machine

/-! ### The flags as numbers -/

theorem isNegative_iff_toNat (v : Word) : isNegative v = true ↔ v.toNat / 2 ^ 15 % 2 = 1 := by
  rw [isNegative, ← BitVec.testBit_toNat, Nat.testBit_eq_decide_div_mod_eq, decide_eq_true_iff]

theorem isNegative_iff_toInt (v : Word) : isNegative v = true ↔ v.toInt < 0 := by
  rw [isNegative_eq_msb, BitVec.msb_eq_toInt, decide_eq_true_iff]

theorem isOverflow_iff_signs (a b : Word) :
    isOverflow a b = true ↔
      a.getLsbD 15 = b.getLsbD 15 ∧ (a + b).getLsbD 15 ≠ a.getLsbD 15 := by
  rw [isOverflow, Bool.and_eq_true, beq_iff_eq, bne_iff_ne]

theorem isOverflow_eq_saddOverflow (a b : Word) : isOverflow a b = a.saddOverflow b :=
  (BitVec.saddOverflow_eq a b).symm

theorem isOverflow_iff_toInt (a b : Word) :
    isOverflow a b = true ↔ a.toInt + b.toInt < -32768 ∨ 32767 < a.toInt + b.toInt := by
  rw [isOverflow_eq_saddOverflow, BitVec.saddOverflow, Bool.or_eq_true, decide_eq_true_iff,
    decide_eq_true_iff]
  omega

/-! ### The results of the arithmetic-logic unit -/

theorem not16_toNat (v : Word) : (not16 v).toNat = 0xFFFF - v.toNat := BitVec.toNat_not

theorem neg16_toNat (v : Word) : (neg16 v).toNat = (0x10000 - v.toNat) % 0x10000 := by
  rw [neg16_eq, BitVec.toNat_neg]

theorem asl16_toNat (v : Word) : (asl16 v).1.toNat = 2 * v.toNat % 0x10000 := by
  rw [asl16, BitVec.toNat_shiftLeft, Nat.shiftLeft_eq, Nat.mul_comm]

theorem signChange_asl16 (v : Word) :
    signChange v (asl16 v).1 = (v.getLsbD 15 != v.getLsbD 14) := by
  simp [signChange, asl16]

/-- R162: copying bit 15 into itself makes the shift the arithmetic one. -/
theorem asr16_fst (v : Word) : (asr16 v).1 = v.sshiftRight 1 := by
  have hmsb : v.msb = v.getLsbD 15 := rfl
  have hsign : (0x8000 : Word) = BitVec.twoPow 16 15 := rfl
  refine BitVec.eq_of_getElem_eq fun i hi => ?_
  simp only [asr16, BitVec.getElem_sshiftRight, hmsb, hsign]
  obtain h | rfl : i < 15 ∨ i = 15 := by omega
  · have hnext : 1 + i < 16 := by omega
    simp [BitVec.getElem_twoPow, h.ne, hnext]
  · simp [BitVec.getElem_twoPow]

theorem asr16_toInt (v : Word) : (asr16 v).1.toInt = v.toInt / 2 := by
  rw [asr16_fst, BitVec.toInt_sshiftRight, Int.shiftRight_eq_div_pow, Nat.pow_one, Nat.cast_ofNat]

@[simp] theorem carryIn_getElem (c : Bool) (i : Nat) (h : i < 16) :
    (carryIn c)[i] = (decide (i = 0) && c) := by
  cases c with
  | false => simp
  | true => simp [BitVec.getElem_one]

/-- R163: the carry-in shifted in at bit 0. -/
theorem rol16_fst (v : Word) (c : Bool) : (rol16 v c).1 = v.shiftConcat c := by
  refine BitVec.eq_of_getElem_eq fun i hi => ?_
  cases i <;> simp [rol16]

/-- R164: the carry-in above bits 15 to 1. -/
theorem ror16_fst (v : Word) (c : Bool) :
    (ror16 v c).1 = BitVec.cons c (v.extractLsb' 1 15) := by
  refine BitVec.eq_of_getElem_eq fun i hi => ?_
  obtain h | rfl : i < 15 ∨ i = 15 := by omega
  · simp [ror16, BitVec.getElem_cons, h, h.ne]
  · simp [ror16, BitVec.getElem_cons]

theorem rol16_toNat (v : Word) (c : Bool) :
    (rol16 v c).1.toNat = (2 * v.toNat + c.toNat) % 0x10000 := by
  rw [rol16_fst, BitVec.toNat_shiftConcat, Nat.shiftLeft_eq, Nat.mul_comm]

theorem ror16_toNat (v : Word) (c : Bool) :
    (ror16 v c).1.toNat = v.toNat / 2 + 0x8000 * c.toNat := by
  have hhalf : v.toNat / 2 < 2 ^ 15 := by have := v.isLt; omega
  rw [ror16_fst, BitVec.toNat_cons', BitVec.extractLsb'_toNat, Nat.shiftRight_eq_div_pow,
    Nat.pow_one, Nat.mod_eq_of_lt hhalf, Nat.shiftLeft_eq, Nat.add_comm, Nat.mul_comm]

/-! ### The corners of subtraction (R156) -/

theorem subC_zero (a : Word) : subC a 0 = false := by
  have hneg : neg16 0 = 0 := rfl
  rw [subC, hneg, isCarry, decide_eq_false_iff_not]
  bv_omega

theorem subC_of_ne_zero (a : Word) {b : Word} (h : b ≠ 0) :
    subC a b = decide (b.toNat ≤ a.toNat) := by
  rw [subC, isCarry, decide_eq_decide, neg16_toNat]
  bv_omega

/-- 0x8000 is its own negation, so the signed sum leaves the range exactly for a negative minuend. -/
theorem subV_intMin (a : Word) : subV a 0x8000 = isNegative a := by
  have hneg : neg16 0x8000 = 0x8000 := rfl
  have hmin : (0x8000 : Word).toInt = -32768 := rfl
  have hlt := a.toInt_lt
  rw [subV, hneg, Bool.eq_iff_iff, isOverflow_iff_toInt, isNegative_iff_toInt, hmin]
  omega

/-! ### The circle of 17 bits a rotate threads (R166) -/

/-- The bit at a place of the circle, places counted modulo 17: the word's bits, then C at place 16. -/
def circleBit (p : Word × Bool) (i : Nat) : Bool :=
  if i % 17 = 16 then p.2 else p.1.getLsbD (i % 17)

theorem circleBit_ext {p q : Word × Bool} (h : ∀ i, circleBit p i = circleBit q i) : p = q := by
  refine Prod.ext (BitVec.eq_of_getLsbD_eq fun i hi => ?_) (h 16)
  have hmod : i % 17 = i := Nat.mod_eq_of_lt (by omega)
  simpa [circleBit, hmod, hi.ne] using h i

/-- ROL moves every place up by one: bit 15 into C, and C into bit 0. -/
theorem circleBit_rol16 (p : Word × Bool) (i : Nat) :
    circleBit (Function.uncurry rol16 p) (i + 1) = circleBit p i := by
  obtain ⟨v, c⟩ := p
  simp only [circleBit, Function.uncurry, rol16_fst, BitVec.getLsbD_shiftConcat]
  obtain h | h | h : i % 17 < 15 ∨ i % 17 = 15 ∨ i % 17 = 16 := by omega
  · have hnext : (i + 1) % 17 = i % 17 + 1 := by omega
    have hlt : i % 17 + 1 < 16 := by omega
    have hne : i % 17 ≠ 16 := by omega
    simp [hnext, hlt, h.ne, hne]
  · have hnext : (i + 1) % 17 = 16 := by omega
    simp [h, hnext, rol16]
  · have hnext : (i + 1) % 17 = 0 := by omega
    simp [h, hnext]

theorem circleBit_iterate_rol16 (k : Nat) (p : Word × Bool) (i : Nat) :
    circleBit ((Function.uncurry rol16)^[k] p) (i + k) = circleBit p i := by
  induction k with
  | zero => rfl
  | succ k ih => rw [Function.iterate_succ_apply', ← Nat.add_assoc, circleBit_rol16, ih]

theorem iterate_rol16_seventeen (p : Word × Bool) : (Function.uncurry rol16)^[17] p = p := by
  refine circleBit_ext fun i => ?_
  calc circleBit ((Function.uncurry rol16)^[17] p) i
      = circleBit ((Function.uncurry rol16)^[17] p) (i + 17) := by
        rw [circleBit, circleBit, Nat.add_mod_right]
    _ = circleBit p i := circleBit_iterate_rol16 17 p i

/-- ROR takes back a ROL. -/
theorem ror16_rol16 (v : Word) (c : Bool) : ror16 (rol16 v c).1 (rol16 v c).2 = (v, c) := by
  have hbit : (ror16 (rol16 v c).1 (rol16 v c).2).2 = c := by simp [ror16, rol16]
  refine Prod.ext (BitVec.eq_of_getElem_eq fun i hi => ?_) hbit
  rw [ror16_fst, rol16_fst]
  obtain h | rfl : i < 15 ∨ i = 15 := by omega
  · have hnext : 1 + i < 16 := by omega
    simp [BitVec.getElem_cons, BitVec.getElem_shiftConcat, h.ne, hnext]
  · simp [BitVec.getElem_cons, rol16]

theorem iterate_ror16_seventeen (p : Word × Bool) : (Function.uncurry ror16)^[17] p = p := by
  have hinv : Function.LeftInverse (Function.uncurry ror16) (Function.uncurry rol16) :=
    fun q => ror16_rol16 q.1 q.2
  calc (Function.uncurry ror16)^[17] p
      = (Function.uncurry ror16)^[17] ((Function.uncurry rol16)^[17] p) := by
        rw [iterate_rol16_seventeen]
    _ = p := hinv.iterate 17 p

/-- The register and C: what a rotate of the register reads and turns. -/
def State.circle (s : State) (r : Reg) : Word × Bool := (s.getReg r, s.c)

/-- An instruction that always answers a next state and acts on the circle as `f` does, executed `k`
times in a row, acts as `f` iterated `k` times. -/
theorem execTimes_circle {i : Instr} {r : Reg} {f : Word × Bool → Word × Bool}
    (h : ∀ s, ∃ t, exec i s = .next t ∧ t.circle r = f (s.circle r)) (k : Nat) (s : State) :
    ∃ t, execTimes k i s = .next t ∧ t.circle r = f^[k] (s.circle r) := by
  induction k generalizing s with
  | zero => exact ⟨s, rfl, rfl⟩
  | succ k ih =>
    obtain ⟨t, hexec, ht⟩ := h s
    obtain ⟨u, htimes, hu⟩ := ih t
    refine ⟨u, ?_, ?_⟩
    · rw [execTimes, hexec]
      exact htimes
    · rw [hu, ht, Function.iterate_succ_apply]

theorem execTimes_seventeen_restores {i : Instr} {r : Reg} {f : Word × Bool → Word × Bool}
    (hf : ∀ p, f^[17] p = p)
    (h : ∀ s, ∃ t, exec i s = .next t ∧ t.circle r = f (s.circle r)) (s : State) :
    ∃ t, execTimes 17 i s = .next t ∧ t.getReg r = s.getReg r ∧ t.c = s.c := by
  obtain ⟨t, htimes, ht⟩ := execTimes_circle h 17 s
  exact ⟨t, htimes, Prod.ext_iff.mp (ht.trans (hf _))⟩

/-! ### The obligations of the flag and arithmetic family -/

/-- Settles O32: N and V by their readings as numbers, Z and C by definition. -/
theorem flagFunctions : Obligations.FlagFunctions := fun a b =>
  ⟨isNegative_iff_toNat a, beq_iff_eq, decide_eq_true_iff, isOverflow_iff_signs a b,
    isNegative_iff_toInt a, isOverflow_iff_toInt a b⟩

/-- Settles O33: the definitions case by case, and ASL's sign change. -/
theorem unaryOverflowSettings : Obligations.UnaryOverflowSettings :=
  ⟨fun _ _ => rfl, fun _ _ _ _ => rfl, fun _ _ _ => ⟨rfl, rfl, rfl, rfl, rfl⟩, signChange_asl16⟩

/-- Settles O34: the definitions, and the corners of C and V. -/
theorem subtractionCorners : Obligations.SubtractionCorners := fun a b =>
  ⟨rfl, rfl, rfl, sub16_eq a b, subC_zero a, subC_of_ne_zero a, subV_intMin a, subV_intMin 0xFFFF⟩

/-- Settles O35: each result by its number, each evicted bit by definition. -/
theorem arithmeticLogicUnit : Obligations.ArithmeticLogicUnit := fun a b c =>
  ⟨BitVec.toNat_add a b, fun _ => BitVec.getLsbD_and, fun _ => BitVec.getLsbD_or, not16_toNat a,
    neg16_toNat a, ⟨asl16_toNat a, rfl⟩, ⟨asr16_toInt a, rfl⟩, ⟨rol16_toNat a c, rfl⟩,
    ror16_toNat a c, rfl⟩

/-- Settles O36: each rotate turns the circle of its register, and seventeen turns are the identity. -/
theorem rotatesCycleInSeventeen : Obligations.RotatesCycleInSeventeen := fun s =>
  ⟨execTimes_seventeen_restores (r := .a) iterate_rol16_seventeen (fun _ => ⟨_, rfl, rfl⟩) s,
    execTimes_seventeen_restores (r := .x) iterate_rol16_seventeen (fun _ => ⟨_, rfl, rfl⟩) s,
    execTimes_seventeen_restores (r := .a) iterate_ror16_seventeen (fun _ => ⟨_, rfl, rfl⟩) s,
    execTimes_seventeen_restores (r := .x) iterate_ror16_seventeen (fun _ => ⟨_, rfl, rfl⟩) s⟩

end Sys2Proof.Machine

/-! ## Halt, call and return (43_halt_call_return.md)

A return is the word read at SP; clear of the input port that word is Ram's (`returnFromCall_of_ne`),
and clear of both ports CALL has put the return address there (`ramWord_callTo`). -/

namespace Sys2Proof.Machine

/-- A return writes PC, SP and the input cursor, and nothing else (R171). -/
theorem returnFromCall_eq (s : State) :
    returnFromCall s =
      { s with pc := (readWord s s.sp).1, sp := s.sp + 2, inCur := (readWord s s.sp).2.inCur } := by
  rw [returnFromCall, readWord_state]
  rfl

/-- Clear of the input port a return pops a word of Ram and moves no cursor. -/
theorem returnFromCall_of_ne {s : State} (h : s.sp ≠ inPort) (h' : s.sp + 1 ≠ inPort) :
    returnFromCall s = { s with pc := ramWord s s.sp, sp := s.sp + 2 } := by
  rw [returnFromCall_eq, readWord_of_ne h h']
  rfl

theorem callTo_sp (t : Word) (s : State) : (callTo t s).sp = s.sp - 2 :=
  writeWord_sp (s.setReg .sp (s.sp - 2)) (s.sp - 2) s.pc

/-- Clear of the ports CALL leaves the PC past it at the new SP (R173). -/
theorem ramWord_callTo (t : Word) {s : State} (h : clearOfPorts (s.sp - 2))
    (h' : clearOfPorts (s.sp - 2 + 1)) : ramWord (callTo t s) (callTo t s).sp = s.pc := by
  rw [callTo_sp]
  exact ramData_writeData (wd := .word) (s.setReg .sp (s.sp - 2)) s.pc
    (Width.forall_bytesAt_word.mpr ⟨h, h'⟩)

/-! ### The obligations of the halt, call and return family -/

/-- Settles O38: both opcodes are `returnFromCall`. -/
theorem returnsPopPc : Obligations.ReturnsPopPc := by
  refine ⟨fun w => ⟨rfl, rfl⟩, fun s => ?state, fun s h h' => ?clear⟩
  case state =>
    rw [← returnFromCall_eq]
    exact ⟨rfl, rfl⟩
  case clear =>
    rw [← returnFromCall_of_ne h h']
    exact ⟨rfl, rfl⟩

/-- Settles O39: CALL is `callTo` of its target by definition. -/
theorem callPushesPcAndJumps : Obligations.CallPushesPcAndJumps :=
  ⟨fun _ _ => decodeOp_eq rfl rfl rfl, fun _ _ => ⟨rfl, rfl⟩⟩

/-- Settles O40: the word popped is the one CALL pushed, and SP moves up by the 2 it moved down. -/
theorem callThenReturn : Obligations.CallThenReturn := by
  intro ix w s h h'
  have hsp := callTo_sp (target ix w s) s
  have hpushed := ramWord_callTo (target ix w s) h h'
  refine ⟨_, rfl, hsp, hpushed, fun t' hsp' hram' => ?_⟩
  have ht : t'.sp = s.sp - 2 := hsp'.trans hsp
  have hreturn : returnFromCall t' = { t' with pc := s.pc, sp := s.sp } := by
    rw [returnFromCall_of_ne (ht ▸ h.1) (ht ▸ h'.1), hram'.trans hpushed, ht, BitVec.sub_add_cancel]
  have hpc : (returnFromCall t').pc = s.pc := by rw [hreturn]
  have hback : (returnFromCall t').sp = s.sp := by rw [hreturn]
  exact ⟨_, _, rfl, hpc, hback, rfl, hpc, hback⟩

end Sys2Proof.Machine

/-! ## The unary instructions (44_unary.md)

Each instruction's next state is one of the model's shared operations by definition. What remains is
of words: the packed flags, the masks as ORs of single bits, and the sign change of each result. -/

namespace Sys2Proof.Machine

/-! ### The packed flags of MOVFLGA (R191) -/

theorem packFlags_toNat (n z v c : Bool) :
    (packFlags n z v c).toNat = 8 * n.toNat + 4 * z.toNat + 2 * v.toNat + c.toNat := by
  decide +revert

theorem packFlags_lt (n z v c : Bool) : (packFlags n z v c).toNat < 16 := by
  decide +revert

/-- Under `keep` A's upper twelve bits stand above a low nibble. -/
theorem movFlgAResult_keep_toNat (a : Word) {low : Word} (h : low.toNat < 16) :
    (movFlgAResult .keep a low).toNat = 16 * (a.toNat / 16) + low.toNat := by
  have hmask : (0xFFF0 : Word) = BitVec.allOnes 16 <<< 4 := by decide
  have hupper : (a &&& 0xFFF0).toNat = 2 ^ 4 * (a.toNat / 2 ^ 4) := by
    rw [hmask, ← BitVec.shiftLeft_ushiftRight, BitVec.toNat_shiftLeft, BitVec.toNat_ushiftRight,
      Nat.shiftLeft_eq, Nat.shiftRight_eq_div_pow]
    omega
  rw [movFlgAResult, BitVec.toNat_or, hupper]
  exact (Nat.two_pow_add_eq_or_of_lt h _).symm

/-! ### The masks of MOVAFLG (R192) -/

theorem testMask_or (a m m' : Word) : testMask a (m ||| m') = (testMask a m || testMask a m') := by
  rw [Bool.eq_iff_iff]
  simp only [testMask, BitVec.and_or_distrib_left, bne_iff_ne, Bool.or_eq_true, ne_eq,
    BitVec.ofNat_eq_ofNat, BitVec.or_eq_zero_iff]
  exact not_and_or

theorem flagMask_extract (k : Nat) : flagMask .extract k = BitVec.twoPow 16 k :=
  BitVec.eq_of_toNat_eq (by rw [flagMask, BitVec.toNat_ofNat, BitVec.toNat_twoPow])

/-- Each cumulative mask adds its flag's own bit to the mask below. -/
theorem flagMask_cumulativeMask_succ (k : Nat) :
    flagMask .cumulativeMask (k + 1) =
      flagMask .extract (k + 1) ||| flagMask .cumulativeMask k := by
  refine BitVec.eq_of_getLsbD_eq fun i hi => ?_
  rw [flagMask_extract, BitVec.getLsbD_or, BitVec.getLsbD_twoPow, Bool.eq_iff_iff]
  simp only [flagMask, BitVec.getLsbD_ofNat, Nat.testBit_two_pow_sub_one, Bool.or_eq_true,
    Bool.and_eq_true, decide_eq_true_iff]
  omega

theorem testMask_extract {k : Nat} (h : k < 16) (a : Word) :
    testMask a (flagMask .extract k) = a.getLsbD k := by
  have hne : BitVec.twoPow 16 k ≠ 0#16 := by
    intro h0
    simpa [BitVec.getLsbD_twoPow, h] using congrArg (·.getLsbD k) h0
  rw [flagMask_extract, testMask, BitVec.and_twoPow]
  cases a.getLsbD k <;> simp [hne]

theorem testMask_cumulativeMask_zero (a : Word) :
    testMask a (flagMask .cumulativeMask 0) = a.getLsbD 0 :=
  testMask_extract (k := 0) (by decide) a

/-- The flag of bit `k + 1` is that bit, or the flag of bit `k`. -/
theorem testMask_cumulativeMask_succ {k : Nat} (h : k + 1 < 16) (a : Word) :
    testMask a (flagMask .cumulativeMask (k + 1)) =
      (a.getLsbD (k + 1) || testMask a (flagMask .cumulativeMask k)) := by
  rw [flagMask_cumulativeMask_succ, testMask_or, testMask_extract h]

/-- R192: the flag of each of the four masks is the OR of its own bit and the bits below it. -/
theorem testMask_cumulativeMask (a : Word) :
    testMask a (flagMask .cumulativeMask 0) = a.getLsbD 0 ∧
    testMask a (flagMask .cumulativeMask 1) = (a.getLsbD 1 || a.getLsbD 0) ∧
    testMask a (flagMask .cumulativeMask 2) = (a.getLsbD 2 || a.getLsbD 1 || a.getLsbD 0) ∧
    testMask a (flagMask .cumulativeMask 3) =
      (a.getLsbD 3 || a.getLsbD 2 || a.getLsbD 1 || a.getLsbD 0) := by
  have h0 := testMask_cumulativeMask_zero a
  have h1 := testMask_cumulativeMask_succ (k := 0) (by decide) a
  have h2 := testMask_cumulativeMask_succ (k := 1) (by decide) a
  have h3 := testMask_cumulativeMask_succ (k := 2) (by decide) a
  simp only [Nat.reduceAdd] at h1 h2 h3
  simp only [h3, h2, h1, h0, Bool.or_assoc, and_self]

theorem packFlags_getLsbD (n z v c : Bool) :
    (packFlags n z v c).getLsbD 0 = c ∧ (packFlags n z v c).getLsbD 1 = v ∧
    (packFlags n z v c).getLsbD 2 = z ∧ (packFlags n z v c).getLsbD 3 = n := by
  decide +revert

/-- The five packings R192 lists are those in which no flag stands without the flags above it. -/
theorem packFlags_mem_iff (n z v c : Bool) :
    packFlags n z v c ∈ [0x0, 0x8, 0xC, 0xE, 0xF] ↔
      (c = true → v = true) ∧ (v = true → z = true) ∧ (z = true → n = true) := by
  decide +revert

/-- R192: the cumulative masks give the packed flags back exactly in the five packings. -/
theorem testMask_packFlags_iff (n z v c : Bool) :
    (testMask (packFlags n z v c) (flagMask .cumulativeMask 0) = c ∧
      testMask (packFlags n z v c) (flagMask .cumulativeMask 1) = v ∧
      testMask (packFlags n z v c) (flagMask .cumulativeMask 2) = z ∧
      testMask (packFlags n z v c) (flagMask .cumulativeMask 3) = n) ↔
    packFlags n z v c ∈ [0x0, 0x8, 0xC, 0xE, 0xF] := by
  obtain ⟨hc, hv, hz, hn⟩ := testMask_cumulativeMask (packFlags n z v c)
  obtain ⟨h0, h1, h2, h3⟩ := packFlags_getLsbD n z v c
  rw [hc, hv, hz, hn, h0, h1, h2, h3, packFlags_mem_iff]
  simp only [Bool.or_assoc, Bool.or_eq_left_iff_imp, Bool.or_eq_true]
  tauto

/-! ### The sign change of each result (R154, R194 to R198) -/

theorem signChange_eq_msb (v w : Word) : signChange v w = (v.msb != w.msb) := rfl

/-- Negation keeps the sign of 0x0000 and of 0x8000 alone. -/
theorem signChange_neg16 (v : Word) :
    signChange v (neg16 v) = (decide (v ≠ 0x0000) && decide (v ≠ 0x8000)) := by
  have hmin : BitVec.intMin 16 = 0x8000 := by decide
  rw [signChange_eq_msb, neg16_eq, BitVec.msb_neg, hmin]
  cases v.msb <;> simp [bne, beq_eq_decide]

theorem signChange_asr16 (v : Word) : signChange v (asr16 v).1 = false := by
  rw [signChange_eq_msb, asr16_fst, BitVec.msb_sshiftRight, bne_self_eq_false]

theorem signChange_rol16 (v : Word) (c : Bool) :
    signChange v (rol16 v c).1 = (v.getLsbD 15 != v.getLsbD 14) := by
  rw [signChange, rol16_fst, BitVec.getLsbD_shiftConcat]
  simp

theorem signChange_ror16 (v : Word) (c : Bool) :
    signChange v (ror16 v c).1 = (v.getLsbD 15 != c) := by
  rw [signChange_eq_msb, ror16_fst, BitVec.msb_cons]
  rfl

/-! ### The obligations of the unary family -/

/-- Settles O41: MOVSPA is the write of SP to A by definition. -/
theorem movspaCopiesSp : Obligations.MovspaCopiesSp := ⟨fun _ => rfl, fun _ => rfl⟩

/-- Settles O42: the packed flags as a number below 16, and A's upper bits above it. -/
theorem movflgaPacksFlags : Obligations.MovflgaPacksFlags :=
  ⟨fun _ => rfl, fun _ => rfl, packFlags_toNat, fun a n z v c =>
    ⟨rfl, movFlgAResult_keep_toNat a (packFlags_lt n z v c)⟩⟩

/-- Settles O43: the masks as ORs of single bits, and the packings they give back. -/
theorem movaflgTestsMasks : Obligations.MovaflgTestsMasks :=
  ⟨fun _ => rfl, fun _ => rfl, testMask_cumulativeMask,
    fun a _ hk => testMask_extract (hk.trans (by decide)) a, testMask_packFlags_iff⟩

/-- Settles O44: NOTA and NOTX are `notReg` of A and of X by definition. -/
theorem notInvertsRegister : Obligations.NotInvertsRegister :=
  ⟨fun _ => ⟨rfl, rfl⟩, fun _ => ⟨rfl, rfl⟩⟩

/-- Settles O45: NEGA and NEGX are `negReg` of A and of X, and the sign change of a negation. -/
theorem negNegatesRegister : Obligations.NegNegatesRegister :=
  ⟨fun _ => ⟨rfl, rfl⟩, fun _ => ⟨rfl, rfl⟩, signChange_neg16⟩

/-- Settles O46: the four shifts are `shiftReg` of A and of X; the sign changes of ASL and ASR. -/
theorem arithmeticShifts : Obligations.ArithmeticShifts :=
  ⟨fun _ => ⟨rfl, rfl, rfl, rfl⟩, fun _ => ⟨rfl, rfl, rfl, rfl⟩,
    fun v => ⟨signChange_asl16 v, signChange_asr16 v⟩⟩

/-- Settles O47: the four rotates are `shiftReg` of A and of X; the sign changes of ROL and ROR. -/
theorem rotatesThroughCarry : Obligations.RotatesThroughCarry :=
  ⟨fun _ => ⟨rfl, rfl, rfl, rfl⟩, fun _ => ⟨rfl, rfl, rfl, rfl⟩,
    fun v c => ⟨signChange_rol16 v c, signChange_ror16 v c⟩⟩

end Sys2Proof.Machine

/-! ## Non-unary arithmetic and logic (45_nonunary_arith.md)

The load path changes the input cursor, N and Z alone, so each shared operation computes from the old
register, and its writes of N and Z replace those of the resolution (`resolveLoad_setReg_setNZ`). -/

namespace Sys2Proof.Machine

/-- A register and its N and Z written over the load path: of the resolution the cursor is left. -/
theorem resolveLoad_setReg_setNZ (cfg : Config) (m : Mode) (wd : Width) (w : Word) (s : State)
    (r : Reg) (u : Word) :
    ((resolveLoad cfg m wd w s).2.setReg r u).setNZ u =
      { s.setReg r u with
        inCur := (resolveLoad cfg m wd w s).2.inCur, n := isNegative u, z := isZero u } := by
  rw [resolveLoad_state]
  cases r <;> rfl

/-- R221, R223: the sum with the resolved word goes to the register, with all four flags. -/
theorem addReg_eq (cfg : Config) (r : Reg) (m : Mode) (w : Word) (s : State) :
    let opnd := (resolveLoad cfg m .word w s).1
    let res := add16 (s.getReg r) opnd
    addReg cfg r m w s =
      { s.setReg r res with
        inCur := (resolveLoad cfg m .word w s).2.inCur, n := isNegative res, z := isZero res
        v := isOverflow (s.getReg r) opnd, c := isCarry (s.getReg r) opnd } := by
  intro opnd res
  rw [addReg, resolveLoad_getReg, resolveLoad_setReg_setNZ]
  rfl

/-- R222, R224: the register minus the resolved word goes to the register, with all four flags. -/
theorem subReg_eq (cfg : Config) (r : Reg) (m : Mode) (w : Word) (s : State) :
    let opnd := (resolveLoad cfg m .word w s).1
    let res := sub16 (s.getReg r) opnd
    subReg cfg r m w s =
      { s.setReg r res with
        inCur := (resolveLoad cfg m .word w s).2.inCur, n := isNegative res, z := isZero res
        v := subV (s.getReg r) opnd, c := subC (s.getReg r) opnd } := by
  intro opnd res
  rw [subReg, resolveLoad_getReg, resolveLoad_setReg_setNZ]
  rfl

/-- R225: the bitwise AND with the resolved word goes to the register, with N and Z. -/
theorem andReg_eq (cfg : Config) (r : Reg) (m : Mode) (w : Word) (s : State) :
    let res := and16 (s.getReg r) (resolveLoad cfg m .word w s).1
    andReg cfg r m w s =
      { s.setReg r res with
        inCur := (resolveLoad cfg m .word w s).2.inCur, n := isNegative res, z := isZero res } := by
  intro res
  rw [andReg, resolveLoad_getReg, resolveLoad_setReg_setNZ]

/-- R226: the bitwise OR with the resolved word goes to the register, with N and Z. -/
theorem orReg_eq (cfg : Config) (r : Reg) (m : Mode) (w : Word) (s : State) :
    let res := or16 (s.getReg r) (resolveLoad cfg m .word w s).1
    orReg cfg r m w s =
      { s.setReg r res with
        inCur := (resolveLoad cfg m .word w s).2.inCur, n := isNegative res, z := isZero res } := by
  intro res
  rw [orReg, resolveLoad_getReg, resolveLoad_setReg_setNZ]

/-! ### The obligations of the non-unary arithmetic family -/

/-- Settles O50: the six are `addReg` and `subReg` of SP, A and X. -/
theorem addSubtractWriteResultAndFlags : Obligations.AddSubtractWriteResultAndFlags := by
  refine ⟨fun m w => ?opcodes, fun m w s => ?states⟩
  case opcodes =>
    exact ⟨decodeOp_eq rfl rfl rfl, decodeOp_eq rfl rfl rfl, decodeOp_eq rfl rfl rfl,
      decodeOp_eq rfl rfl rfl, decodeOp_eq rfl rfl rfl, decodeOp_eq rfl rfl rfl⟩
  case states =>
    have hadd (r : Reg) := congrArg (Host.Outcome.next : State → Result) (addReg_eq config r m w s)
    have hsub (r : Reg) := congrArg (Host.Outcome.next : State → Result) (subReg_eq config r m w s)
    exact ⟨hadd .sp, hsub .sp, hadd .a, hadd .x, hsub .a, hsub .x⟩

/-- Settles O51: the four are `andReg` and `orReg` of A and X. -/
theorem andOrWriteResult : Obligations.AndOrWriteResult := by
  refine ⟨fun m w => ?opcodes, fun m w s => ?states⟩
  case opcodes =>
    exact ⟨decodeOp_eq rfl rfl rfl, decodeOp_eq rfl rfl rfl, decodeOp_eq rfl rfl rfl,
      decodeOp_eq rfl rfl rfl⟩
  case states =>
    have hand (r : Reg) := congrArg (Host.Outcome.next : State → Result) (andReg_eq config r m w s)
    have hor (r : Reg) := congrArg (Host.Outcome.next : State → Result) (orReg_eq config r m w s)
    exact ⟨hand .a, hand .x, hor .a, hor .x⟩

end Sys2Proof.Machine

/-! ## Compare (46_compare.md)

The load path leaves the registers as they were, and a compare's N and Z replace those of the resolution
(`resolveLoad_setNZ`): the flags and the input cursor are all that a compare changes. -/

namespace Sys2Proof.Machine

/-- N and Z written over the load path: of the resolution the cursor is left. -/
theorem resolveLoad_setNZ (cfg : Config) (m : Mode) (wd : Width) (w : Word) (s : State) (u : Word) :
    (resolveLoad cfg m wd w s).2.setNZ u =
      { s with
        inCur := (resolveLoad cfg m wd w s).2.inCur, n := isNegative u, z := isZero u } := by
  rw [resolveLoad_state]
  rfl

/-- R250: all four flags come from the resolved word minus the register, and nothing but the cursor
changes beside them. -/
theorem compareReg_eq (cfg : Config) (r : Reg) (m : Mode) (w : Word) (s : State) :
    let opnd := (resolveLoad cfg m .word w s).1
    let res := sub16 opnd (s.getReg r)
    compareReg cfg r m w s =
      { s with
        inCur := (resolveLoad cfg m .word w s).2.inCur, n := isNegative res, z := isZero res
        v := subV opnd (s.getReg r), c := subC opnd (s.getReg r) } := by
  intro opnd res
  rw [compareReg, resolveLoad_getReg, resolveLoad_setNZ]
  rfl

/-! ### The obligation of the compare family -/

/-- Settles O52: the four are `compareReg` of A and X, CPB as CPW. -/
theorem compareSetsFlagsOnly : Obligations.CompareSetsFlagsOnly := by
  refine ⟨fun m w => ?opcodes, fun m w s => ?states⟩
  case opcodes =>
    exact ⟨decodeOp_eq rfl rfl rfl, decodeOp_eq rfl rfl rfl, decodeOp_eq rfl rfl rfl,
      decodeOp_eq rfl rfl rfl⟩
  case states =>
    have hcmp (r : Reg) :=
      congrArg (Host.Outcome.next : State → Result) (compareReg_eq config r m w s)
    exact ⟨hcmp .a, hcmp .x, hcmp .a, hcmp .x⟩

end Sys2Proof.Machine

/-! ## Load and store (47_load_store.md)

A load writes its register over the load path, whose N and Z are already those of the value; a store is the
data write at the address `resolveStore` gives, on the state its pointer read left. -/

namespace Sys2Proof.Machine

/-- R260, R261: the resolved value goes to the whole register, with N and Z, and nothing but the cursor
changes beside them. -/
theorem loadReg_eq (cfg : Config) (r : Reg) (wd : Width) (m : Mode) (w : Word) (s : State) :
    let opnd := (resolveLoad cfg m wd w s).1
    loadReg cfg r wd m w s =
      { s.setReg r opnd with
        inCur := (resolveLoad cfg m wd w s).2.inCur, n := isNegative opnd, z := isZero opnd } := by
  intro opnd
  have hflags : loadReg cfg r wd m w s = ((resolveLoad cfg m wd w s).2.setReg r opnd).setNZ opnd := by
    cases r <;> rfl
  rw [hflags, resolveLoad_setReg_setNZ]

/-- R263, R264: the register as it was before the pointer read goes to the resolved address. -/
theorem storeReg_of_resolveStore {m : Mode} {w ea : Word} {s s1 : State} (r : Reg) (wd : Width)
    (h : resolveStore m w s = some (ea, s1)) :
    storeReg r wd m w s = .next (writeData wd s1 ea (s.getReg r)) := by
  obtain ⟨rfl, -⟩ | ⟨ea', s1', hea, hstore⟩ := storeReg_cases r wd m w s
  · cases h
  · obtain ⟨rfl, rfl⟩ := Prod.mk.inj (Option.some.inj (hea.symm.trans h))
    exact hstore

/-- Outside immediate mode the store path resolves an address (R132). -/
theorem exists_resolveStore {m : Mode} (w : Word) (s : State) (h : m ≠ .immediate) :
    ∃ ea s1, resolveStore m w s = some (ea, s1) := by
  obtain ⟨⟨ea, s1⟩, hea⟩ := Option.ne_none_iff_exists'.mp (mt (effectiveAddress_eq_none m w s).mp h)
  exact ⟨ea, s1, hea⟩

/-! ### The obligations of the load and store family -/

/-- Settles O53: the four are `loadReg` of A and X, at each width. -/
theorem loadsWriteRegister : Obligations.LoadsWriteRegister := by
  refine ⟨fun m w => ?opcodes, fun m w s => ?states⟩
  case opcodes =>
    exact ⟨decodeOp_eq rfl rfl rfl, decodeOp_eq rfl rfl rfl, decodeOp_eq rfl rfl rfl,
      decodeOp_eq rfl rfl rfl⟩
  case states =>
    have hload (r : Reg) (wd : Width) :=
      congrArg (Host.Outcome.next : State → Result) (loadReg_eq config r wd m w s)
    exact ⟨hload .a .word, hload .x .word, hload .a .byte, hload .x .byte⟩

/-- Settles O54: the four are `storeReg` of A and X, at each width; in immediate mode they fault (O57). -/
theorem storesWriteResolvedAddress : Obligations.StoresWriteResolvedAddress := by
  refine ⟨fun m w => ?opcodes, fun m w s hm => ?addressed, fatalInstructionsFault.2⟩
  case opcodes =>
    exact ⟨decodeOp_eq rfl rfl rfl, decodeOp_eq rfl rfl rfl, decodeOp_eq rfl rfl rfl,
      decodeOp_eq rfl rfl rfl⟩
  case addressed =>
    obtain ⟨ea, s1, hea⟩ := exists_resolveStore w s hm
    have hstore (r : Reg) (wd : Width) := storeReg_of_resolveStore r wd hea
    exact ⟨ea, s1, hea, effectiveAddress_state hea, hstore .a .word, hstore .x .word,
      hstore .a .byte, hstore .x .byte⟩

end Sys2Proof.Machine

/-! ## The branches (48_branch.md) -/

namespace Sys2Proof.Machine

/-- The target as a value: Operand, or Operand + X (R281). -/
theorem target_eq {ix : Index} {w tgt : Word} {s : State}
    (h : ix = .plain ∧ tgt = w ∨ ix = .indexed ∧ tgt = w + s.x) : target ix w s = tgt := by
  obtain ⟨rfl, rfl⟩ | ⟨rfl, rfl⟩ := h <;> rfl

/-- Settles O56: the nine are `branchIf` of their conditions. -/
theorem branchesFollowConditions : Obligations.BranchesFollowConditions := by
  refine ⟨fun ix w => ?opcodes, fun ix w tgt s htgt => ?states⟩
  case opcodes =>
    exact ⟨decodeOp_eq rfl rfl rfl, decodeOp_eq rfl rfl rfl, decodeOp_eq rfl rfl rfl,
      decodeOp_eq rfl rfl rfl, decodeOp_eq rfl rfl rfl, decodeOp_eq rfl rfl rfl,
      decodeOp_eq rfl rfl rfl, decodeOp_eq rfl rfl rfl, decodeOp_eq rfl rfl rfl⟩
  case states =>
    intro go
    have hgo (k : Cond) : .next (branchIf k ix w s) = go (k.holds s) := by
      rw [branchIf, target_eq htgt]
      rfl
    exact ⟨hgo .always, hgo .le, hgo .lt, hgo .eq, hgo .ne, hgo .ge, hgo .gt, hgo .v, hgo .c⟩

end Sys2Proof.Machine

/-! ## Configuration, reset, LoadProgram and the halted machine (00_scope.md, 10_state.md,
70_reset_and_hazards.md) -/

namespace Sys2Proof.Machine

/-- The image's bytes stand at the indexes from 0 (R331). -/
theorem Memory.getElem?_eq_read_load {bs : List Byte} {i : Nat} (m : Memory) (h : i < bs.length) :
    bs[i]? = some ((m.load 0 bs).read i) := by
  rw [Memory.read_load, if_pos (by omega), Nat.sub_zero, List.getD_eq_getElem _ _ h,
    List.getElem?_eq_getElem h]

/-- The raw copy leaves every index from the image's length on (R331). -/
theorem Memory.read_load_of_length_le {bs : List Byte} {i : Nat} (m : Memory) (h : bs.length ≤ i) :
    (m.load 0 bs).read i = m.read i := by
  rw [Memory.read_load, if_neg (by omega)]

/-- Settles O10: up to the limit the raw copy, byte by byte, and above it the refusal. -/
theorem loadProgramCopiesImage : Obligations.LoadProgramCopiesImage := by
  refine fun cfg bs s => ⟨fun hle => ?copied, fun hlt => ?refused, rfl⟩
  case copied =>
    exact ⟨{ s with ram := s.ram.load 0 bs }, if_pos hle, fun _ => Memory.getElem?_eq_read_load s.ram,
      fun _ => Memory.read_load_of_length_le s.ram, rfl⟩
  case refused => exact if_neg (Nat.not_le.mpr hlt)

/-- Settles O9: the record update of `initialise`, field by field. -/
theorem initializeWritesFiveElements : Obligations.InitializeWritesFiveElements := fun _ =>
  ⟨⟨rfl, rfl, rfl, rfl, rfl⟩, rfl, rfl, rfl, rfl, rfl, rfl, rfl, rfl, rfl, rfl, rfl, rfl⟩

/-- Settles O7: the configuration's fields, and `zeroState`. -/
theorem configurationIsTheDefault : Obligations.ConfigurationIsTheDefault :=
  ⟨rfl, rfl, rfl, rfl, rfl, rfl, fun _ => rfl⟩

/-- Settles O8: the fields of `State.reset`, whose empty stores read as the blank byte. -/
theorem resetState : Obligations.ResetState :=
  ⟨rfl, rfl, rfl, rfl, rfl,
    ⟨rfl, rfl, rfl, rfl, rfl, rfl, rfl, rfl, rfl,
      fun i => ⟨Memory.read_nil i, Memory.read_nil i, Memory.read_nil i⟩⟩, fun _ => rfl⟩

/-- Settles O15: no step runs once the run has halted (`step_halted`). -/
theorem haltedMachineStays : Obligations.HaltedMachineStays := fun _ => step_halted

end Sys2Proof.Machine
